-- ==== Sys2Proof/Word.lean ====
section
/-!
DEFINITION. The word types of the FCD (spec/00_scope.md R8, R9, R10): a byte, the two wider unsigned values, the 32-bit
two's-complement value and the byte sequence.
-/

namespace Sys2Proof

/-- A byte, an unsigned integer 0..255 (R9). -/
abbrev Byte := BitVec 8

/-- A u16, 0..65535 (R9). -/
abbrev U16 := BitVec 16

/-- A u32, 0..2^32-1 (R9). -/
abbrev U32 := BitVec 32

/-- An s32, the 32 bits of a two's-complement signed integer, read with `BitVec.toInt` (R9). -/
abbrev S32 := BitVec 32

/-- A byte sequence: index 0 is the first byte written to or read from the link (R10). -/
abbrev Bytes := List Byte

end Sys2Proof
end

