-- ==== Sys2Proof/Config.lean ====
section
/-!
DEFINITION. What the link can answer (spec/00_scope.md R15), the configuration registers (R7; 10_state.md R31), and every
free value of the model: the link oracle and the parameters the spec leaves OPEN.
-/

namespace Sys2Proof

/-- The answers of `LinkWrite` (R15): OK only if all bytes were accepted, otherwise an IOError kind. -/
inductive WriteAnswer where
  | ok
  | shortWrite
  | other
  deriving DecidableEq, Repr, Inhabited

/-- The answers of `LinkRead` (R15): one received transfer, no data in time, or an IOError kind. -/
inductive ReadAnswer where
  | data (b : Bytes)
  | timeout
  | invalidRead
  | other
  deriving DecidableEq, Repr, Inhabited

/-- One link interaction that has happened (20_memory.md R50: their total order is what every observer sees).
`delivered` is the part of the offered frame that reached the chip (R47). -/
inductive LinkEvent where
  | write (offered : Bytes) (answer : WriteAnswer) (delivered : Bytes)
  | read (timeoutMs : U32) (answer : ReadAnswer)
  | close
  deriving DecidableEq, Repr

/-- The 4-byte register tuple of a bitrate profile (30_encoding.md R72). -/
structure BitrateTuple where
  b0 : Byte
  b1 : Byte
  b2 : Byte
  b3 : Byte
  deriving DecidableEq, Repr, Inhabited

/-- The configuration parameters of R7, which act as read-only configuration registers (10_state.md R31). -/
structure ConfigRegs where
  /-- `RESP_TIMEOUT_MS` (D19). -/
  respTimeoutMs : U32
  /-- `DRAIN_TIMEOUT_MS` (D20). -/
  drainTimeoutMs : U32
  /-- `FW_OPTION_SET` (D15). -/
  fwOptionSet : List Byte
  /-- `BITRATE_TABLE`, by profile index (R72, D24). -/
  bitrateTable : Vector BitrateTuple 8
  /-- `PROTOCOL_KEY_ID`, in the field order of R73 (D25). -/
  protocolKeyId : Vector Byte 19
  /-- `COMM_FLAG_BIT`: the ten flags whose bit the document does not give, in the table order of R146 (D18). -/
  commFlagBit : Vector U32 10
  deriving DecidableEq, Repr

/-- FREE VALUE, the link oracle (R15, 60_exceptions.md R220): what the link answers to a write that no scripted answer
covers. It may depend on everything that has happened on the link and on the bytes offered. -/
opaque Config.linkWriteAnswer : List LinkEvent → Bytes → WriteAnswer

/-- FREE VALUE, the link oracle (R15, R220): what the link answers to a read that no scripted answer covers. -/
opaque Config.linkReadAnswer : List LinkEvent → U32 → ReadAnswer

/-- FREE VALUE: how many bytes of a frame reached the chip when its write failed (20_memory.md R47, U2). -/
opaque Config.deliveredCount : List LinkEvent → Bytes → Nat

/-- FREE VALUE: `RESP_TIMEOUT_MS`, OPEN with no default (D19). -/
opaque Config.respTimeoutMs : U32

/-- FREE VALUE: `BITRATE_TABLE`, OPEN with no default (D24). -/
opaque Config.bitrateTuple : Fin 8 → BitrateTuple

/-- FREE VALUE: which 19 distinct bytes `PROTOCOL_KEY_ID` maps the fields to (D25). Every injection of 19 fields into
the 256 bytes extends to a permutation, so nothing but distinctness is fixed. -/
opaque Config.protocolKeyChoice : Equiv.Perm (Fin 256)

/-- FREE VALUE: which distinct bits the ten unnumbered communication flags have (D18), among the 30 bits that are
neither 7 (ReceiveTimeout) nor 31 (ReceiveLength). -/
opaque Config.commFlagChoice : Equiv.Perm (Fin 30)

/-- The `p`-th of the 30 bit positions left to the unnumbered flags: 0 to 6 and 8 to 30 (42_dispatch.md R146). -/
def Config.freeFlagBit (p : Fin 30) : Nat := if p.val < 7 then p.val else p.val + 1

/-- The configuration registers as fixed at instantiation (10_state.md R37): the spec's defaults where R7 gives one
(`DRAIN_TIMEOUT_MS` 10, `FW_OPTION_SET` 3C 3D 80), a free value where it gives none. -/
def ConfigRegs.instantiated : ConfigRegs where
  respTimeoutMs := Config.respTimeoutMs
  drainTimeoutMs := 10
  fwOptionSet := [0x3C, 0x3D, 0x80]
  bitrateTable := Vector.ofFn Config.bitrateTuple
  protocolKeyId := Vector.ofFn fun f =>
    BitVec.ofFin (Config.protocolKeyChoice (f.castLE (by decide)))
  commFlagBit := Vector.ofFn fun i =>
    BitVec.twoPow 32 (Config.freeFlagBit (Config.commFlagChoice (i.castLE (by decide))))

end Sys2Proof
end

