-- ==== Sys2Proof/Syntax.lean ====
section
/-!
DEFINITION. The syntax of everything the FCD performs: one constructor of `Instr` per row of spec/opcode_table.json
(4 wire-frame classes, 7 request payloads, 7 response payloads, 25 host operations), and the operand types.
-/

namespace Sys2Proof

/-- The class of a received transfer (41_frame.md R111). -/
inductive FrameKind where
  | ack
  | err
  | data
  | unknown
  deriving DecidableEq, Repr

/-- The Frame value: a transfer with the class that decode gave it (41_frame.md R114). -/
structure Frame where
  bytes : Bytes
  kind : FrameKind
  deriving DecidableEq, Repr

/-- The ProtocolParameters record: 19 fields, each absent or a u8, in the document's order (30_encoding.md R73). -/
structure ProtocolParameters where
  initialGuardTime : Option Byte
  addCrc : Option Byte
  checkCrc : Option Byte
  multiCard : Option Byte
  addParity : Option Byte
  checkParity : Option Byte
  bitwiseAnticoll : Option Byte
  lastByteBitCount : Option Byte
  mifareCrypto : Option Byte
  addSof : Option Byte
  checkSof : Option Byte
  addEof : Option Byte
  checkEof : Option Byte
  deafTime : Option Byte
  continuousReceiveMode : Option Byte
  minLenForCrm : Option Byte
  type1TagRrdd : Option Byte
  rfca : Option Byte
  guardTime : Option Byte
  deriving DecidableEq, Repr

/-- What the FCD performs, one constructor per row of the opcode table.

A host operation is what the host issues (30_encoding.md R80). A request or response payload is what the Dispatch unit
carries to or takes from the chip (R64, R65, R68, R69). A wire frame is one transfer handed to the Frame unit (R60 to
R63, R78). -/
inductive Instr where
  -- wire frames
  | frameAck
  | frameErr
  | frameData (raw : Bytes)
  | frameUnknown (raw : Bytes)
  -- request payloads, with the args of R68
  | reqInSetRF (s0 s1 r2 r3 : Byte)
  | reqInSetProtocol (pairs : List (Byte × Byte))
  | reqInCommRF (timeout : U16) (data : Bytes)
  | reqSwitchRF (on : Bool)
  | reqSetCommandType (n : Byte)
  | reqGetFirmwareVersion (option : Option Byte)
  | reqGetPDDataVersion
  -- response payloads, with the results after the two header bytes
  | rspInSetRF (results : Bytes)
  | rspInSetProtocol (results : Bytes)
  | rspInCommRF (results : Bytes)
  | rspSwitchRF (results : Bytes)
  | rspSetCommandType (results : Bytes)
  | rspGetFirmwareVersion (results : Bytes)
  | rspGetPDDataVersion (results : Bytes)
  -- host operations: Codec
  | checksum (x : Bytes)
  | checksumOk (r : Bytes)
  | toLE16 (v : U16)
  | fromLE16 (b : Bytes)
  | fromLE32 (b : Bytes)
  -- host operations: Frame unit
  | encode (commandBytes : Bytes)
  | decode (raw : Bytes)
  | payload (frame : Frame)
  -- host operations: Dispatch unit
  | commandOpcode (cmd : Byte)
  | buildRequest (cmd : Byte) (args : Bytes)
  | checkResponse (cmd : Byte) (p : Bytes)
  | sendCommand (cmd : Byte) (args : Bytes)
  | statusName (code : Byte)
  | commFlags (mask : U32)
  | isReceiveTimeout (mask : U32)
  | convertTimeout (t : S32)
  -- host operations: typed wrappers
  | setCommandType (n : Byte)
  | switchRF (on : Bool)
  | getFirmwareVersion (option : Option Byte)
  | getPDDataVersion
  | inSetRF (send : Byte) (recv : Option Byte)
  | inSetProtocol (params : ProtocolParameters)
  | inCommRF (data : Bytes) (timeoutUnits : S32)
  -- host operations: Channel unit
  | openChannel
  | closeChannel
  deriving DecidableEq, Repr

/-- Where something to perform is presented: the host interface (30_encoding.md R80), the Dispatch unit's payload side
(R64, R65), or the Frame unit's transfer side (R63). -/
inductive Port where
  | host
  | payload
  | transfer
  deriving DecidableEq, Repr

/-- One thing presented to the FCD: its bytes in transmission order, whole (its extent is the item's extent). -/
structure Item where
  port : Port
  bytes : Bytes
  deriving DecidableEq, Repr

end Sys2Proof
end

