-- ==== Sys2Proof/Machine/Result.lean ====
section
/-!
DEFINITION. What an operation ends with: the channel states, the closed set of errors and their codes
(spec/60_exceptions.md R200), the values and the reply returned to the host (00_scope.md R12, R13).
-/

namespace Sys2Proof.Machine

open Sys2Proof

/-- The four values of `chan_state` (10_state.md R23). -/
inductive ChanState where
  | unopened
  | opened
  | failed
  | closed
  deriving DecidableEq, Repr

/-- The numeric value of `chan_state`, a 2-bit register (R23). -/
def ChanState.code : ChanState → BitVec 2
  | .unopened => 0
  | .opened => 1
  | .failed => 2
  | .closed => 3

/-- The kinds of IOError (R202). -/
inductive IOKind where
  | shortWrite
  | invalidRead
  | timeout
  | other
  deriving DecidableEq, Repr

/-- The two checksum-protected ranges of a Data frame (R203). -/
inductive ChecksumRange where
  | length
  | payload
  deriving DecidableEq, Repr

/-- The names of the status byte (30_encoding.md R74); `unknown` keeps the raw byte. -/
inductive StatusName where
  | success
  | parameterError
  | pbError
  | rfcaError
  | temperatureError
  | pwdError
  | receiveError
  | commandTypeError
  | unknown (code : Byte)
  deriving DecidableEq, Repr

/-- The 12 named flags of CommunicationStatus, in the document's order (30_encoding.md R75). -/
inductive CommFlag where
  | protocol
  | parity
  | crc
  | collision
  | overflow
  | temperature
  | receiveTimeout
  | crypto1
  | rfca
  | rfOff
  | transmitTimeout
  | receiveLength
  deriving DecidableEq, Repr

/-- The errors an operation can end with, each with the info it carries (R200). They are results returned to the host,
not stops of the machine (R216, R217). -/
inductive Error where
  | protocolMismatch
  | ioError (kind : IOKind)
  | checksumMismatch (range : ChecksumRange)
  | truncated (length : Nat)
  | statusError (code : Byte) (name : StatusName)
  | communicationError (mask : U32)
  | parameterError (value : Byte)
  | lengthRange (length : Nat)
  | resultShape (length : Nat)
  | channelState (st : ChanState)
  | notDataFrame (kind : FrameKind)
  | illegalOp (selector : Byte)
  deriving DecidableEq, Repr

/-- The error's numeric code (the table of R200). -/
def Error.code : Error → Nat
  | .protocolMismatch => 1
  | .ioError _ => 2
  | .checksumMismatch _ => 3
  | .truncated _ => 4
  | .statusError _ _ => 5
  | .communicationError _ => 6
  | .parameterError _ => 7
  | .lengthRange _ => 8
  | .resultShape _ => 9
  | .channelState _ => 10
  | .notDataFrame _ => 11
  | .illegalOp _ => 12

/-- The fatal errors: they latch FAILED when they end a link operation (R201). -/
def Error.isFatal : Error → Bool
  | .ioError _ => true
  | .checksumMismatch _ => true
  | .truncated _ => true
  | _ => false

/-- The kind code of a frame at the host interface (30_encoding.md R81). -/
def frameKindCode : FrameKind → Nat
  | .ack => 0
  | .err => 1
  | .data => 2
  | .unknown => 3

/-- A result value (the result column of 30_encoding.md R80); `nothing` is `return` with no value (R12). -/
inductive Value where
  | nothing
  | u8 (v : Byte)
  | u16 (v : U16)
  | u32 (v : U32)
  | bool (v : Bool)
  | bytes (v : Bytes)
  | frame (v : Frame)
  | status (v : StatusName)
  | flags (names : List CommFlag) (residue : U32)
  deriving DecidableEq, Repr

/-- The one result of an operation (R12): a value, None (the ProtocolMismatch outcome), or an error. -/
inductive Reply where
  | value (v : Value)
  | noResult
  | error (e : Error)
  deriving DecidableEq, Repr

/-- The reply's code in the table of R200: 0 success, 1 ProtocolMismatch, otherwise the error's. -/
def Reply.code : Reply → Nat
  | .value _ => 0
  | .noResult => 1
  | .error e => e.code

end Sys2Proof.Machine
end

