-- ==== Sys2Proof/Machine/Codec.lean ====
section
/-!
DEFINITION. The Codec unit (spec/40_codec.md R100 to R104): the additive checksum and the little-endian conversions, as
pure functions that hold no state.
-/

namespace Sys2Proof.Machine

open Sys2Proof

/-- The half-open slice `b[a..c]` (00_scope.md R10). -/
def slice (b : Bytes) (a c : Nat) : Bytes := (b.drop a).take (c - a)

/-- `sum(b)`: the sum of the bytes as unbounded integers (R10). -/
def byteSum (b : Bytes) : Nat := (b.map BitVec.toNat).sum

/-- `checksum(x)`: the byte c with `sum(x) + c ≡ 0 (mod 256)` (R100). -/
def checksum (x : Bytes) : Byte := BitVec.ofNat 8 ((256 - byteSum x % 256) % 256)

/-- `checksum_ok(r)`: a protected range with its checksum byte sums to 0 mod 256 (R101). -/
def checksumOk (r : Bytes) : Bool := byteSum r % 256 == 0

/-- `toLE16(v)`: `[v[7:0], v[15:8]]` (R102). -/
def toLE16 (v : U16) : Bytes := [v.extractLsb' 0 8, v.extractLsb' 8 8]

/-- `fromLE16(b)`: 2 little-endian bytes; any other length raises ResultShape (R103). -/
def fromLE16 : Bytes → Except Error U16
  | [b0, b1] => .ok (b0.zeroExtend 16 ||| (b1.zeroExtend 16 <<< 8))
  | b => .error (.resultShape b.length)

/-- `fromLE32(b)`: 4 little-endian bytes; any other length raises ResultShape (R104). -/
def fromLE32 : Bytes → Except Error U32
  | [b0, b1, b2, b3] =>
    .ok (b0.zeroExtend 32 ||| (b1.zeroExtend 32 <<< 8) ||| (b2.zeroExtend 32 <<< 16)
      ||| (b3.zeroExtend 32 <<< 24))
  | b => .error (.resultShape b.length)

end Sys2Proof.Machine
end

