-- ==== Sys2Proof/Machine/Frame.lean ====
section
/-!
DEFINITION. The Frame unit (spec/41_frame.md R110 to R114; formats 30_encoding.md R60 to R63): the frame constants, the
Data-frame encoder, the classifier and the payload extractor, as pure functions.
-/

namespace Sys2Proof.Machine

open Sys2Proof

/-- `ACK_FRAME` (10_state.md R25; 30_encoding.md R60). -/
def ackFrame : Bytes := [0x00, 0x00, 0xFF, 0x00, 0xFF, 0x00]

/-- `ERR_FRAME` (R25, R62). -/
def errFrame : Bytes := [0x00, 0x00, 0xFF, 0xFF, 0xFF]

/-- `PREAMBLE` (R25, R61). -/
def preamble : Bytes := [0x00, 0x00, 0xFF, 0xFF, 0xFF]

/-- `TRAILER` (R25). -/
def trailer : Bytes := [0x00]

/-- `MAX_PAYLOAD_LEN` (00_scope.md R6). -/
def maxPayloadLen : Nat := 65535

/-- The length field of a payload of `n` bytes (R61, R110). -/
def lengthBytes (n : Nat) : Bytes := toLE16 (BitVec.ofNat 16 n)

/-- The Data frame that carries P: preamble, length field and its checksum, P and its checksum, trailer (R61). -/
def dataFrame (p : Bytes) : Bytes :=
  preamble ++ lengthBytes p.length ++ [checksum (lengthBytes p.length)] ++ p ++ [checksum p] ++ trailer

/-- `encode(P)`: the Data frame, or LengthRange when the length field cannot hold the length (R110). -/
def encodeFrame (p : Bytes) : Except Error Bytes :=
  if p.length > maxPayloadLen then .error (.lengthRange p.length) else .ok (dataFrame p)

/-- The Data test of R111: at least 5 bytes, and FF at indices 3 and 4. -/
def isDataCandidate (raw : Bytes) : Bool :=
  decide (raw.length ≥ 5) && raw[3]? == some 0xFF && raw[4]? == some 0xFF

/-- `L`, the length field at bytes 5 and 6 (R111, R113). The callers hold at least 8 bytes; of a shorter sequence,
which is no Data frame, it is 0. -/
def lengthField (raw : Bytes) : Nat :=
  match fromLE16 (slice raw 5 7) with
  | .ok l => l.toNat
  | .error _ => 0

/-- `decode(raw)`: classify a transfer and validate a Data frame, the checks in the order of R111 and R214. -/
def decodeFrame (raw : Bytes) : Except Error Frame :=
  if raw = ackFrame then .ok ⟨raw, .ack⟩
  else if raw = errFrame then .ok ⟨raw, .err⟩
  else if isDataCandidate raw then
    if raw.length < 8 then .error (.truncated raw.length)
    else if !checksumOk (slice raw 5 8) then .error (.checksumMismatch .length)
    else if raw.length < 9 + lengthField raw then .error (.truncated raw.length)
    else if !checksumOk (slice raw 8 (9 + lengthField raw)) then .error (.checksumMismatch .payload)
    else .ok ⟨raw, .data⟩
  else .ok ⟨raw, .unknown⟩

/-- `payload(frame)`: the length-prefixed slice at offset 8 of a Data frame (R113). -/
def payloadOf (f : Frame) : Except Error Bytes :=
  if f.kind ≠ .data then .error (.notDataFrame f.kind)
  else .ok (slice f.bytes 8 (8 + lengthField f.bytes))

end Sys2Proof.Machine
end

