-- ==== Sys2Proof/Machine/Tables.lean ====
section
/-!
DEFINITION. The constant tables (spec/10_state.md R25 to R30): read-only, fixed for all instances, written by no operation
(R38), so they are definitions and not fields of State.
-/

namespace Sys2Proof.Machine

open Sys2Proof

/-- `REQ_HDR` (00_scope.md R6). -/
def reqHdr : Byte := 0xD6

/-- `RSP_HDR` (R6). -/
def rspHdr : Byte := 0xD7

/-- The seven commands of the closed set (30_encoding.md R66). -/
inductive Command where
  | inSetRF
  | inSetProtocol
  | inCommRF
  | switchRF
  | setCommandType
  | getFirmwareVersion
  | getPDDataVersion
  deriving DecidableEq, Repr

/-- `OPCODE_TABLE` in command-index order (R66). -/
def opcodeTable : List (Command × Byte) :=
  [(.inSetRF, 0x00), (.inSetProtocol, 0x02), (.inCommRF, 0x04), (.switchRF, 0x06),
   (.setCommandType, 0x2A), (.getFirmwareVersion, 0x20), (.getPDDataVersion, 0x22)]

/-- The command's index at the host interface (R66). -/
def commandIndex : Command → Byte
  | .inSetRF => 0
  | .inSetProtocol => 1
  | .inCommRF => 2
  | .switchRF => 3
  | .setCommandType => 4
  | .getFirmwareVersion => 5
  | .getPDDataVersion => 6

/-- `STATUS_NAME`: the names of the status bytes 0 to 7 (R74). -/
def statusNameTable : List StatusName :=
  [.success, .parameterError, .pbError, .rfcaError, .temperatureError, .pwdError, .receiveError,
   .commandTypeError]

/-- The flags whose bit is configured, in the order of `COMM_FLAG_BIT` (42_dispatch.md R146). -/
def configuredFlags : List CommFlag :=
  [.protocol, .parity, .crc, .collision, .overflow, .temperature, .crypto1, .rfca, .rfOff,
   .transmitTimeout]

/-- The bit of ReceiveTimeout (R146). -/
def receiveTimeoutBit : U32 := 0x00000080

/-- The bit of ReceiveLength (R146). -/
def receiveLengthBit : U32 := 0x80000000

/-- `COMM_FLAG`: the 12 flags with their bits, in the table order of R146. -/
def commFlagTable (cfg : ConfigRegs) : List (CommFlag × U32) :=
  let c := configuredFlags.zip cfg.commFlagBit.toList
  c.take 6 ++ [(.receiveTimeout, receiveTimeoutBit)] ++ c.drop 6 ++
    [(.receiveLength, receiveLengthBit)]

/-- The bitrate profile names by index (30_encoding.md R72). -/
def profileNames : List String :=
  ["212F", "424F", "106A", "212A", "424A", "106B", "212B", "424B"]

/-- The protocol parameter field names, in the document's order (R73). -/
def protocolFieldNames : List String :=
  ["initial_guard_time", "add_crc", "check_crc", "multi_card", "add_parity", "check_parity",
   "bitwise_anticoll", "last_byte_bit_count", "mifare_crypto", "add_sof", "check_sof", "add_eof",
   "check_eof", "deaf_time", "continuous_receive_mode", "min_len_for_crm", "type_1_tag_rrdd",
   "rfca", "guard_time"]

/-- The values of a ProtocolParameters record in the field order of R73. -/
def protocolValues (p : ProtocolParameters) : List (Option Byte) :=
  [p.initialGuardTime, p.addCrc, p.checkCrc, p.multiCard, p.addParity, p.checkParity,
   p.bitwiseAnticoll, p.lastByteBitCount, p.mifareCrypto, p.addSof, p.checkSof, p.addEof,
   p.checkEof, p.deafTime, p.continuousReceiveMode, p.minLenForCrm, p.type1TagRrdd, p.rfca,
   p.guardTime]

/-- The record with the given 19 values in the field order of R73; of any other number of values, none. -/
def protocolOfValues : List (Option Byte) → Option ProtocolParameters
  | [a1, a2, a3, a4, a5, a6, a7, a8, a9, a10, a11, a12, a13, a14, a15, a16, a17, a18, a19] =>
    some ⟨a1, a2, a3, a4, a5, a6, a7, a8, a9, a10, a11, a12, a13, a14, a15, a16, a17, a18, a19⟩
  | _ => none

end Sys2Proof.Machine
end

