-- ==== Sys2Proof/WellFormed.lean ====
section
/-!
DEFINITION. Which terms of `Instr` the interfaces can carry: the operand widths of spec/00_scope.md R8, the payload lengths
of 20_memory.md R41, the wire-frame classes of 30_encoding.md R63, and the Frame operand of 41_frame.md R114.
-/

namespace Sys2Proof

/-- A `bytes` operand of the host interface has length 0 to 2^32 - 1 (R8, R81). -/
def hostBytes (b : Bytes) : Bool := decide (b.length < 2 ^ 32)

/-- A payload of `n` bytes fits one Data frame (R64). -/
def fitsFrame (n : Nat) : Bool := decide (n ≤ Machine.maxPayloadLen)

/-- The keys of (key, value) pairs are strictly ascending (R68, R73). -/
def keysAscend : List (Byte × Byte) → Bool
  | [] => true
  | [_] => true
  | p :: q :: rest => decide (p.1.toNat < q.1.toNat) && keysAscend (q :: rest)

/-- A Frame operand is a value that decode returns for its bytes (R81, R114). -/
def frameFromDecode (f : Frame) : Bool := decide (Machine.decodeFrame f.bytes = .ok f)

/-- The well-formed instructions: exactly the terms some item presented to the FCD stands for. -/
def WellFormed : Instr → Bool
  | .frameAck => true
  | .frameErr => true
  | .frameData raw =>
    raw != Machine.ackFrame && raw != Machine.errFrame && Machine.isDataCandidate raw
  | .frameUnknown raw =>
    raw != Machine.ackFrame && raw != Machine.errFrame && !Machine.isDataCandidate raw
  | .reqInSetRF _ _ _ _ => true
  | .reqInSetProtocol pairs => keysAscend pairs && decide (pairs.length ≤ 19)
  | .reqInCommRF _ data => fitsFrame (data.length + 4)
  | .reqSwitchRF _ => true
  | .reqSetCommandType _ => true
  | .reqGetFirmwareVersion _ => true
  | .reqGetPDDataVersion => true
  | .rspInSetRF results => fitsFrame (results.length + 2)
  | .rspInSetProtocol results => fitsFrame (results.length + 2)
  | .rspInCommRF results => fitsFrame (results.length + 2)
  | .rspSwitchRF results => fitsFrame (results.length + 2)
  | .rspSetCommandType results => fitsFrame (results.length + 2)
  | .rspGetFirmwareVersion results => fitsFrame (results.length + 2)
  | .rspGetPDDataVersion results => fitsFrame (results.length + 2)
  | .checksum x => hostBytes x
  | .checksumOk r => hostBytes r
  | .toLE16 _ => true
  | .fromLE16 b => hostBytes b
  | .fromLE32 b => hostBytes b
  | .encode p => hostBytes p
  | .decode raw => hostBytes raw
  | .payload f => hostBytes f.bytes && frameFromDecode f
  | .commandOpcode _ => true
  | .buildRequest _ args => hostBytes args
  | .checkResponse _ p => hostBytes p
  | .sendCommand _ args => hostBytes args
  | .statusName _ => true
  | .commFlags _ => true
  | .isReceiveTimeout _ => true
  | .convertTimeout _ => true
  | .setCommandType _ => true
  | .switchRF _ => true
  | .getFirmwareVersion _ => true
  | .getPDDataVersion => true
  | .inSetRF _ _ => true
  | .inSetProtocol _ => true
  | .inCommRF data _ => hostBytes data
  | .openChannel => true
  | .closeChannel => true

end Sys2Proof
end

