-- ==== Sys2Proof/Decode.lean ====
section
/-!
DEFINITION. The decoder of items presented to the FCD, the encoder, and the words of the opcode table.

At the host port an item is the selector byte of spec/30_encoding.md R80 and then the operands in the order of its table,
each in the form of R81. The bytes of those forms are the model's (DESIGN CHOICE, log entry 4): multi-byte numbers
little-endian, a `bytes` operand as a 4-byte length and the bytes, an optional u8 as a presence byte and a byte. At the
payload port an item is a request or response payload (R64, R65, R68). At the transfer port it is one link transfer (R63).
-/

namespace Sys2Proof

/-- Why an item is not an instruction. -/
inductive DecodeError where
  /-- A selector that R80 does not list: the operation ends with IllegalOp (60_exceptions.md R213). -/
  | illegalSelector (selector : Byte)
  /-- The operand bytes are not of the form the selector's operands have. -/
  | malformedOperands
  /-- A payload that is none of the table's request or response payloads. -/
  | unknownPayload
  deriving DecidableEq, Repr

/-! ### Operand forms -/

/-- The `n` low bytes of `v`, little-endian. -/
def leBytes : Nat → Nat → Bytes
  | 0, _ => []
  | n + 1, v => BitVec.ofNat 8 v :: leBytes n (v / 256)

/-- The value of a little-endian byte sequence. -/
def leNat : Bytes → Nat
  | [] => 0
  | b :: bs => b.toNat + 256 * leNat bs

/-- A `bytes` operand: its length in 4 bytes, then the bytes (R81). -/
def putBytes (b : Bytes) : Bytes := leBytes 4 b.length ++ b

/-- An optional u8: a presence bit and a byte (R81). -/
def putOption : Option Byte → Bytes
  | none => [0, 0]
  | some v => [1, v]

/-- A boolean operand: one bit, 1 is on (R81). -/
def putBool (b : Bool) : Bytes := [if b then 1 else 0]

/-- Take `n` bytes off the front. -/
def takeN (n : Nat) (b : Bytes) : Option (Bytes × Bytes) :=
  if b.length < n then none else some (b.take n, b.drop n)

/-- Take an `n`-byte little-endian number off the front. -/
def takeLE (n : Nat) (b : Bytes) : Option (Nat × Bytes) :=
  (takeN n b).map fun r => (leNat r.1, r.2)

/-- Take a `bytes` operand off the front. -/
def takeBytes (b : Bytes) : Option (Bytes × Bytes) :=
  (takeLE 4 b).bind fun r => takeN r.1 r.2

/-- Take a u8 off the front. -/
def takeByte : Bytes → Option (Byte × Bytes)
  | [] => none
  | v :: rest => some (v, rest)

/-- Take an optional u8 off the front: the presence byte is 0 or 1, and the byte of an absent value is not read. -/
def takeOption : Bytes → Option (Option Byte × Bytes)
  | p :: v :: rest => if p = 0 then some (none, rest) else if p = 1 then some (some v, rest) else none
  | _ => none

/-- Take a boolean off the front: a byte 0 or 1. -/
def takeBool : Bytes → Option (Bool × Bytes)
  | p :: rest => if p = 0 then some (false, rest) else if p = 1 then some (true, rest) else none
  | [] => none

/-- Take `n` optional u8 off the front. -/
def takeOptions : Nat → Bytes → Option (List (Option Byte) × Bytes)
  | 0, b => some ([], b)
  | n + 1, b =>
    (takeOption b).bind fun r => (takeOptions n r.2).map fun q => (r.1 :: q.1, q.2)

/-- Take a ProtocolParameters operand off the front: 19 optional u8 in field order (R81). -/
def takeParams (b : Bytes) : Option (ProtocolParameters × Bytes) :=
  (takeOptions 19 b).bind fun r => (Machine.protocolOfValues r.1).map fun p => (p, r.2)

/-- An instruction from its operands, which must use up the item. -/
def whole {α : Type} (r : Option (α × Bytes)) (k : α → Instr) : Except DecodeError Instr :=
  match r with
  | some (a, []) => .ok (k a)
  | _ => .error .malformedOperands

/-- A Frame operand is the value decode returns for the bytes given (R81, R114). -/
def takeFrame (b : Bytes) : Option (Frame × Bytes) :=
  (takeBytes b).bind fun r =>
    match Machine.decodeFrame r.1 with
    | .ok f => some (f, r.2)
    | .error _ => none

/-! ### The decoder -/

/-- The host operation with selector `sel` and operand bytes `ops` (R80). -/
def decodeHostOp (sel : Byte) (ops : Bytes) : Except DecodeError Instr :=
  match sel.toNat with
  | 0x01 => whole (takeBytes ops) .checksum
  | 0x02 => whole (takeBytes ops) .checksumOk
  | 0x03 => whole (takeLE 2 ops) fun v => .toLE16 (BitVec.ofNat 16 v)
  | 0x04 => whole (takeBytes ops) .fromLE16
  | 0x05 => whole (takeBytes ops) .fromLE32
  | 0x10 => whole (takeBytes ops) .encode
  | 0x11 => whole (takeBytes ops) .decode
  | 0x12 => whole (takeFrame ops) .payload
  | 0x20 => whole (takeByte ops) .commandOpcode
  | 0x21 => whole ((takeByte ops).bind fun c => (takeBytes c.2).map fun a => ((c.1, a.1), a.2))
      fun p => .buildRequest p.1 p.2
  | 0x22 => whole ((takeByte ops).bind fun c => (takeBytes c.2).map fun a => ((c.1, a.1), a.2))
      fun p => .checkResponse p.1 p.2
  | 0x23 => whole ((takeByte ops).bind fun c => (takeBytes c.2).map fun a => ((c.1, a.1), a.2))
      fun p => .sendCommand p.1 p.2
  | 0x24 => whole (takeByte ops) .statusName
  | 0x25 => whole (takeLE 4 ops) fun v => .commFlags (BitVec.ofNat 32 v)
  | 0x26 => whole (takeLE 4 ops) fun v => .isReceiveTimeout (BitVec.ofNat 32 v)
  | 0x27 => whole (takeLE 4 ops) fun v => .convertTimeout (BitVec.ofNat 32 v)
  | 0x30 => whole (takeByte ops) .setCommandType
  | 0x31 => whole (takeBool ops) .switchRF
  | 0x32 => whole (takeOption ops) .getFirmwareVersion
  | 0x33 => whole (some ((), ops)) fun _ => .getPDDataVersion
  | 0x34 => whole ((takeByte ops).bind fun c => (takeOption c.2).map fun a => ((c.1, a.1), a.2))
      fun p => .inSetRF p.1 p.2
  | 0x35 => whole (takeParams ops) .inSetProtocol
  | 0x36 => whole ((takeBytes ops).bind fun d => (takeLE 4 d.2).map fun t => ((d.1, t.1), t.2))
      fun p => .inCommRF p.1 (BitVec.ofNat 32 p.2)
  | 0x40 => whole (some ((), ops)) fun _ => .openChannel
  | 0x41 => whole (some ((), ops)) fun _ => .closeChannel
  | _ => .error (.illegalSelector sel)

/-- The (key, value) pairs of InSetProtocol's args (R68). -/
def readPairs : Bytes → Option (List (Byte × Byte))
  | [] => some []
  | [_] => none
  | k :: v :: rest => (readPairs rest).map fun ps => (k, v) :: ps

/-- A request payload `D6 op args`, its args in the form R68 gives the command. -/
def decodeRequest (op : Byte) (args : Bytes) : Except DecodeError Instr :=
  match op.toNat with
  | 0x00 =>
    match args with
    | [s0, s1, r2, r3] => .ok (.reqInSetRF s0 s1 r2 r3)
    | _ => .error .malformedOperands
  | 0x02 =>
    match readPairs args with
    | some ps =>
      if keysAscend ps && decide (ps.length ≤ 19) then .ok (.reqInSetProtocol ps)
      else .error .malformedOperands
    | none => .error .malformedOperands
  | 0x04 =>
    match args with
    | t0 :: t1 :: data => .ok (.reqInCommRF (t1 ++ t0) data)
    | _ => .error .malformedOperands
  | 0x06 => whole (takeBool args) .reqSwitchRF
  | 0x2A => whole (takeByte args) .reqSetCommandType
  | 0x20 =>
    match args with
    | [] => .ok (.reqGetFirmwareVersion none)
    | [o] => .ok (.reqGetFirmwareVersion (some o))
    | _ => .error .malformedOperands
  | 0x22 => whole (some ((), args)) fun _ => .reqGetPDDataVersion
  | _ => .error .unknownPayload

/-- A response payload `D7 op+1 results` (R65). -/
def decodeResponse (op : Byte) (results : Bytes) : Except DecodeError Instr :=
  match op.toNat with
  | 0x01 => .ok (.rspInSetRF results)
  | 0x03 => .ok (.rspInSetProtocol results)
  | 0x05 => .ok (.rspInCommRF results)
  | 0x07 => .ok (.rspSwitchRF results)
  | 0x2B => .ok (.rspSetCommandType results)
  | 0x21 => .ok (.rspGetFirmwareVersion results)
  | 0x23 => .ok (.rspGetPDDataVersion results)
  | _ => .error .unknownPayload

/-- A request or response payload, which fits one Data frame (R64, R65). -/
def decodePayload (p : Bytes) : Except DecodeError Instr :=
  if p.length > Machine.maxPayloadLen then .error .malformedOperands
  else
    match p with
    | h :: op :: rest =>
      if h = Machine.reqHdr then decodeRequest op rest
      else if h = Machine.rspHdr then decodeResponse op rest
      else .error .unknownPayload
    | _ => .error .unknownPayload

/-- The class of a transfer, in the priority of the table and of R63. -/
def decodeTransfer (raw : Bytes) : Instr :=
  if raw = Machine.ackFrame then .frameAck
  else if raw = Machine.errFrame then .frameErr
  else if Machine.isDataCandidate raw then .frameData raw
  else .frameUnknown raw

/-- The decoder: total on every item. -/
def decodeItem (it : Item) : Except DecodeError Instr :=
  match it.port with
  | .host =>
    match it.bytes with
    | [] => .error .malformedOperands
    | sel :: ops => decodeHostOp sel ops
  | .payload => decodePayload it.bytes
  | .transfer => .ok (decodeTransfer it.bytes)

/-! ### The encoder -/

/-- An item of the host port. -/
def hostItem (sel : Byte) (ops : Bytes) : Item := ⟨.host, sel :: ops⟩

/-- An item of the payload port: a request payload (R64). -/
def requestItem (op : Byte) (args : Bytes) : Item := ⟨.payload, Machine.reqHdr :: op :: args⟩

/-- An item of the payload port: a response payload to opcode `op` (R65). -/
def responseItem (op : Byte) (results : Bytes) : Item :=
  ⟨.payload, Machine.rspHdr :: (op + 1) :: results⟩

/-- The bytes of (key, value) pairs (R68). -/
def pairBytes (ps : List (Byte × Byte)) : Bytes := ps.flatMap fun p => [p.1, p.2]

/-- The item of a well-formed instruction. -/
def encode : Instr → Item
  | .frameAck => ⟨.transfer, Machine.ackFrame⟩
  | .frameErr => ⟨.transfer, Machine.errFrame⟩
  | .frameData raw => ⟨.transfer, raw⟩
  | .frameUnknown raw => ⟨.transfer, raw⟩
  | .reqInSetRF s0 s1 r2 r3 => requestItem 0x00 [s0, s1, r2, r3]
  | .reqInSetProtocol pairs => requestItem 0x02 (pairBytes pairs)
  | .reqInCommRF t data => requestItem 0x04 (Machine.toLE16 t ++ data)
  | .reqSwitchRF on => requestItem 0x06 (putBool on)
  | .reqSetCommandType n => requestItem 0x2A [n]
  | .reqGetFirmwareVersion o => requestItem 0x20 o.toList
  | .reqGetPDDataVersion => requestItem 0x22 []
  | .rspInSetRF results => responseItem 0x00 results
  | .rspInSetProtocol results => responseItem 0x02 results
  | .rspInCommRF results => responseItem 0x04 results
  | .rspSwitchRF results => responseItem 0x06 results
  | .rspSetCommandType results => responseItem 0x2A results
  | .rspGetFirmwareVersion results => responseItem 0x20 results
  | .rspGetPDDataVersion results => responseItem 0x22 results
  | .checksum x => hostItem 0x01 (putBytes x)
  | .checksumOk r => hostItem 0x02 (putBytes r)
  | .toLE16 v => hostItem 0x03 (leBytes 2 v.toNat)
  | .fromLE16 b => hostItem 0x04 (putBytes b)
  | .fromLE32 b => hostItem 0x05 (putBytes b)
  | .encode p => hostItem 0x10 (putBytes p)
  | .decode raw => hostItem 0x11 (putBytes raw)
  | .payload f => hostItem 0x12 (putBytes f.bytes)
  | .commandOpcode cmd => hostItem 0x20 [cmd]
  | .buildRequest cmd args => hostItem 0x21 (cmd :: putBytes args)
  | .checkResponse cmd p => hostItem 0x22 (cmd :: putBytes p)
  | .sendCommand cmd args => hostItem 0x23 (cmd :: putBytes args)
  | .statusName code => hostItem 0x24 [code]
  | .commFlags mask => hostItem 0x25 (leBytes 4 mask.toNat)
  | .isReceiveTimeout mask => hostItem 0x26 (leBytes 4 mask.toNat)
  | .convertTimeout t => hostItem 0x27 (leBytes 4 t.toNat)
  | .setCommandType n => hostItem 0x30 [n]
  | .switchRF on => hostItem 0x31 (putBool on)
  | .getFirmwareVersion o => hostItem 0x32 (putOption o)
  | .getPDDataVersion => hostItem 0x33 []
  | .inSetRF send recv => hostItem 0x34 (send :: putOption recv)
  | .inSetProtocol params => hostItem 0x35 ((Machine.protocolValues params).flatMap putOption)
  | .inCommRF data t => hostItem 0x36 (putBytes data ++ leBytes 4 t.toNat)
  | .openChannel => hostItem 0x40 []
  | .closeChannel => hostItem 0x41 []

/-! ### The words of the opcode table -/

/-- The `n` bytes of a table word whose first transmitted byte is its most significant one: the table writes a wire
format's match in transmission order (`0xD600` is `D6 00`), read as one number. -/
def wordBytes (n w : Nat) : Bytes := (leBytes n w).reverse

/-- How many operand bytes a host operation has when all of them are zero (R80, R81). -/
def zeroOperands (sel : Nat) : Nat :=
  match sel with
  | 0x01 | 0x02 | 0x04 | 0x05 | 0x10 | 0x11 | 0x12 => 4
  | 0x03 => 2
  | 0x20 | 0x24 | 0x30 | 0x31 => 1
  | 0x21 | 0x22 | 0x23 => 5
  | 0x25 | 0x26 | 0x27 => 4
  | 0x32 => 2
  | 0x34 => 3
  | 0x35 => 38
  | 0x36 => 8
  | _ => 0

/-- How many zero bytes follow the two header bytes of a payload row: the args R68 gives the command, the results R69
reads. -/
def zeroPayload (w : Nat) : Nat :=
  match w with
  | 0xD600 => 4
  | 0xD604 => 2
  | 0xD606 | 0xD62A => 1
  | 0xD701 | 0xD703 | 0xD707 | 0xD72B => 1
  | 0xD705 => 5
  | 0xD721 | 0xD723 => 2
  | _ => 0

/-- The transfer of a wire-frame row: the row's bytes, and for a Data candidate the zero bytes of an empty payload's
length region, checksum and trailer (R61). -/
def tableTransfer (raw : Bytes) : Bytes :=
  if raw != Machine.errFrame && Machine.isDataCandidate raw then raw ++ List.replicate 5 0 else raw

/-- The item a table word stands for. A row of 8 bits is a host selector, a row of 16 bits a payload header or the two
bytes at indices 3 and 4 of FRAME_DATA, a row of 40 or 48 bits a whole transfer, and FRAME_UNKNOWN's row has no bits. -/
def tableItem (nbits w : Nat) : Item :=
  if nbits = 0 then ⟨.transfer, []⟩
  else if nbits ≤ 8 then
    ⟨.host, BitVec.ofNat 8 w :: List.replicate (zeroOperands w) 0⟩
  else if nbits ≤ 16 then
    if w / 256 = 0xD6 ∨ w / 256 = 0xD7 then
      ⟨.payload, wordBytes 2 w ++ List.replicate (zeroPayload w) 0⟩
    else ⟨.transfer, tableTransfer (wordBytes 5 w)⟩
  else if nbits ≤ 40 then ⟨.transfer, tableTransfer (wordBytes 5 w)⟩
  else ⟨.transfer, tableTransfer (wordBytes ((nbits + 7) / 8) w)⟩

/-- The instruction the decoder reads from a word of the opcode table, numbered as the table numbers it. -/
def decodeTableWord (nbits w : Nat) : Option Instr :=
  match decodeItem (tableItem nbits w) with
  | .ok i => some i
  | .error _ => none

end Sys2Proof
end

