-- ==== Sys2Proof/Machine/Operands.lean ====
section
/-!
DEFINITION. How operands become args, and how results become values: opcode lookup and the payload headers
(spec/42_dispatch.md R130 to R132), the timeout conversion (R150), the args of each command (30_encoding.md R68) and the
readers of each command's results (R69).
-/

namespace Sys2Proof.Machine

open Sys2Proof

/-- `command_opcode(cmd)`: an index over 6 raises ParameterError (R130). -/
def commandOpcode (cmd : Byte) : Except Error Byte :=
  match opcodeTable[cmd.toNat]? with
  | some row => .ok row.2
  | none => .error (.parameterError cmd)

/-- `build_request(cmd, args)`: `D6 op args`, or ParameterError, or LengthRange (R131). -/
def buildRequest (cmd : Byte) (args : Bytes) : Except Error Bytes :=
  match commandOpcode cmd with
  | .error e => .error e
  | .ok op =>
    if 2 + args.length > maxPayloadLen then .error (.lengthRange (2 + args.length))
    else .ok (reqHdr :: op :: args)

/-- `check_response(cmd, p)`: the results after a header `D7 op+1`, None for any other payload (R132). -/
def checkResponse (cmd : Byte) (p : Bytes) : Except Error (Option Bytes) :=
  match commandOpcode cmd with
  | .error e => .error e
  | .ok op =>
    match p with
    | h :: r :: results => .ok (if h = rspHdr ∧ r = op + 1 then some results else none)
    | _ => .ok none

/-- `convert_timeout(t)`: `min(max(t, 0) * 10, 0xFFFF)`, computed in unbounded integers (R150). -/
def convertTimeout (t : S32) : U16 :=
  BitVec.ofNat 16 (min ((if t.toInt > 0 then t.toInt else 0).toNat * 10) 0xFFFF)

/-- The args of SwitchRF (R68). -/
def switchArgs (on : Bool) : Bytes := [if on then 0x01 else 0x00]

/-- The args of GetFirmwareVersion (R68). -/
def optionArgs (option : Option Byte) : Bytes := option.toList

/-- The args of InSetRF: the send profile's first two bytes and the receive profile's last two (R68, R165). -/
def bitrateArgs (s r : BitrateTuple) : Bytes := [s.b0, s.b1, r.b2, r.b3]

/-- The args of InCommRF: the converted timeout, little-endian, then the data (R70). -/
def commArgs (t : U16) (data : Bytes) : Bytes := toLE16 t ++ data

/-- Insert a pair before the first pair with a greater or equal key. -/
def insertPair (p : Byte × Byte) : List (Byte × Byte) → List (Byte × Byte)
  | [] => [p]
  | q :: rest => if p.1.toNat ≤ q.1.toNat then p :: q :: rest else q :: insertPair p rest

/-- Sort pairs by key, ascending (R73, R166). -/
def sortPairs : List (Byte × Byte) → List (Byte × Byte)
  | [] => []
  | p :: rest => insertPair p (sortPairs rest)

/-- The (key, value) pairs of the present fields, in field order: absent fields emit nothing (R73). -/
def presentPairs (keys : List Byte) (values : List (Option Byte)) : List (Byte × Byte) :=
  (keys.zip values).filterMap fun kv => kv.2.map fun v => (kv.1, v)

/-- The bytes of the pairs, `[k, v]` for each (R166). -/
def serializePairs (ps : List (Byte × Byte)) : Bytes := ps.flatMap fun p => [p.1, p.2]

/-- The args of InSetProtocol: the present fields as pairs in ascending key order (R68, R73, R166). -/
def protocolArgs (cfg : ConfigRegs) (params : ProtocolParameters) : Bytes :=
  serializePairs (sortPairs (presentPairs cfg.protocolKeyId.toList (protocolValues params)))

/-- The version wrappers' reading of results: 2 little-endian bytes, the rest ignored (R163, R164). -/
def readVersion (r : Bytes) : Except Error Value :=
  if r.length < 2 then .error (.resultShape r.length)
  else (fromLE16 (slice r 0 2)).map .u16

/-- in_comm_rf's reading of results, its checks in the order of R167: 4 bytes of status word, a non-zero word is a
CommunicationError, then 5 bytes, of which the fifth is not checked. -/
def readComm (r : Bytes) : Except Error Value :=
  if r.length < 4 then .error (.resultShape r.length)
  else
    match fromLE32 (slice r 0 4) with
    | .error e => .error e
    | .ok st =>
      if st ≠ 0 then .error (.communicationError st)
      else if r.length < 5 then .error (.resultShape r.length)
      else .ok (.bytes (r.drop 5))

/-- send_command's reading of results: the results themselves (R133). -/
def readRaw (r : Bytes) : Except Error Value := .ok (.bytes r)

end Sys2Proof.Machine
end

