-- ==== Sys2Proof/Machine/Flags.lean ====
section
/-!
DEFINITION. The condition outputs of the FCD (spec/10_state.md R32, R33): the status byte and its names
(42_dispatch.md R140, R141) and the CommunicationStatus word as a condition code (R145 to R147). There is no flag
register: none of them is kept.
-/

namespace Sys2Proof.Machine

open Sys2Proof

/-- `status_name(code)`: the table for 0 to 7, otherwise unknown with the raw byte kept (R140). -/
def statusName (code : Byte) : StatusName :=
  match statusNameTable[code.toNat]? with
  | some n => n
  | none => .unknown code

/-- The status wrappers' reading of results (R160): the first byte, zero is success, further bytes are ignored. -/
def readStatus : Bytes → Except Error Value
  | [] => .error (.resultShape 0)
  | s :: _ => if s ≠ 0 then .error (.statusError s (statusName s)) else .ok .nothing

/-- The flags of the word that are set, in table order (R145). -/
def flagNames (cfg : ConfigRegs) (mask : U32) : List CommFlag :=
  ((commFlagTable cfg).filter fun f => mask &&& f.2 != 0).map Prod.fst

/-- `known` of R145: the OR of every flag's bit. -/
def knownFlags (cfg : ConfigRegs) : U32 :=
  (commFlagTable cfg).foldl (fun acc f => acc ||| f.2) 0

/-- The residue of R145: the set bits that no flag names. -/
def flagResidue (cfg : ConfigRegs) (mask : U32) : U32 := mask &&& ~~~ (knownFlags cfg)

/-- `is_receive_timeout(mask)`: tests the single bit 0x80 (R147). -/
def isReceiveTimeout (mask : U32) : Bool := mask &&& 0x00000080 != 0

end Sys2Proof.Machine
end

