-- ==== Sys2Proof/Machine/State.lean ====
section
/-!
DEFINITION. The state of the FCD (spec/10_state.md), the model's own fields beside it, the reasons a step can stop, and
the state right after reset (R37, R240).
-/

namespace Sys2Proof.Machine

open Sys2Proof

/-- The position of an operation's own sequence (10_state.md R22). Every operation but open makes a bounded number of
link interactions and is one atomic step (D1), so between steps the position is at the start, or inside open's drain,
which has no bound (70_reset_and_hazards.md R246). -/
inductive SeqPos where
  | start
  | draining
  deriving DecidableEq, Repr

/-- The reasons the machine stops with a fault. There is none: the FCD has no traps, and an operation that cannot
complete returns an error to the host and the FCD goes on (60_exceptions.md R216, R217). Safe. -/
inductive Fault where
  deriving DecidableEq, Repr

/-- The reasons a step has no meaning. -/
inductive Refusal where
  /-- Raised by an arm of `exec` whose instruction has no meaning yet (none does). Safe. -/
  | notModelled (mnemonic : String)
  /-- Raised by `step` for an item at the host or payload port whose operand bytes are not of the form the
  operation's operands have, which no host can issue (30_encoding.md R81). Safe. -/
  | malformedOperands
  /-- Raised by `step` for an item at the payload port that is none of the table's payloads (30_encoding.md R76: the
  FCD emits only the seven opcodes). Safe. -/
  | unknownPayload
  deriving DecidableEq, Repr

/-- The state of the FCD and of the two sides it talks to. -/
structure State where
  /-- `chan_state`, a 2-bit register (R23). -/
  chanState : ChanState
  /-- The configuration parameters, read-only registers (R31). -/
  cfg : ConfigRegs
  /-- The position of the running operation's sequence (R22, R36). -/
  seq : SeqPos
  /-- MODEL's own: what has been issued or presented to the FCD and not yet performed, in order (20_memory.md R50). -/
  hostQueue : List Item
  /-- MODEL's own: the results returned to the host so far, oldest first (00_scope.md R12). No operation reads it. -/
  replies : List Reply
  /-- Link side: the answers the link gives to the coming writes, in order (the link script of 30_encoding.md R82);
  past its end the answers are free. -/
  writeAnswers : List WriteAnswer
  /-- Link side: the answers the link gives to the coming reads, in order: the pending transfers of R34 and the
  timeouts and failures between them (R82); past its end the answers are free. -/
  readAnswers : List ReadAnswer
  /-- MODEL's own: the link interactions so far, oldest first (20_memory.md R50). Only the link oracle reads it. -/
  trace : List LinkEvent
  deriving DecidableEq, Repr

/-- The state right after reset (R37, R240, R241): UNOPENED, the configuration as instantiated, no operation running,
nothing issued, nothing returned, no link activity, and nothing known of what the link will answer. -/
def State.reset : State where
  chanState := .unopened
  cfg := ConfigRegs.instantiated
  seq := .start
  hostQueue := []
  replies := []
  writeAnswers := []
  readAnswers := []
  trace := []

end Sys2Proof.Machine
end

