-- ==== Sys2Proof/Machine/Ops.lean ====
section
/-!
DEFINITION. The named operations over the state: the three link primitives (spec/00_scope.md R15), how an operation ends
(60_exceptions.md R216, R217), the fatal latch (42_dispatch.md R136), the gate (R137), the round trip (R133), and the
helpers of the typed wrappers (43_commands.md R160).
-/

namespace Sys2Proof.Machine

open Sys2Proof

/-! ### The link primitives -/

/-- What the link answers to the next write: the scripted answer, or past the script's end any answer. -/
def nextWriteAnswer (b : Bytes) (s : State) : WriteAnswer :=
  match s.writeAnswers with
  | a :: _ => a
  | [] => Config.linkWriteAnswer s.trace b

/-- What reached the chip of an offered frame: all of it on OK, otherwise an unknown prefix (20_memory.md R47). -/
def deliveredPart (trace : List LinkEvent) (b : Bytes) : WriteAnswer → Bytes
  | .ok => b
  | _ => b.take (Config.deliveredCount trace b)

/-- `LinkWrite(b)` (R15). -/
def linkWrite (b : Bytes) (s : State) : WriteAnswer × State :=
  let a := nextWriteAnswer b s
  (a, { s with
    writeAnswers := s.writeAnswers.tail
    trace := s.trace ++ [.write b a (deliveredPart s.trace b a)] })

/-- A read that completes with zero bytes is the outcome TIMEOUT (R15, D4). -/
def readOutcome : ReadAnswer → ReadAnswer
  | .data [] => .timeout
  | a => a

/-- What the link answers to the next read: the scripted answer, or past the script's end any answer. -/
def nextReadAnswer (t : U32) (s : State) : ReadAnswer :=
  readOutcome <|
    match s.readAnswers with
    | a :: _ => a
    | [] => Config.linkReadAnswer s.trace t

/-- `LinkRead(t)` (R15): a DATA answer is consumed (20_memory.md R48). -/
def linkRead (t : U32) (s : State) : ReadAnswer × State :=
  let a := nextReadAnswer t s
  (a, { s with
    readAnswers := s.readAnswers.tail
    trace := s.trace ++ [.read t a] })

/-- `LinkClose()`: it never fails (R15). -/
def linkClose (s : State) : State := { s with trace := s.trace ++ [.close] }

/-- `write_ack()` (41_frame.md R115). -/
def writeAck (s : State) : WriteAnswer × State := linkWrite ackFrame s

/-- The IOError a write answer stands for (R15, 60_exceptions.md R202). -/
def writeError : WriteAnswer → Option Error
  | .ok => none
  | .shortWrite => some (.ioError .shortWrite)
  | .other => some (.ioError .other)

/-! ### How an operation ends -/

/-- An outcome of a part of an operation with the state it leaves: a value, or the error raised (R12). -/
structure Res (α : Type) where
  out : Except Error α
  st : State

/-- Go on with the value; a raised error ends the caller with the same error (R12, R217). -/
def Res.andThen {α β : Type} (r : Res α) (k : α → State → Res β) : Res β :=
  match r.out with
  | .ok a => k a r.st
  | .error e => ⟨.error e, r.st⟩

/-- Return one result to the host (R216: as its only result). -/
def reply (r : Reply) (s : State) : State := { s with replies := s.replies ++ [r] }

/-- End an operation: the value, None, or the error entry of R216, which changes no state of its own. -/
def finish (r : Res (Option Value)) : State :=
  match r.out with
  | .ok (some v) => reply (.value v) r.st
  | .ok none => reply .noResult r.st
  | .error e => reply (.error e) r.st

/-- End an operation that uses no state and no link (R80: the pure operations). -/
def finishPure (r : Except Error Value) (s : State) : State := finish ⟨r.map some, s⟩

/-- The fatal-error latch: FAILED, then the error is returned (R136, R201). -/
def fatal {α : Type} (e : Error) (s : State) : Res α := ⟨.error e, { s with chanState := .failed }⟩

/-- The channel-state gate: outside OPEN, ChannelState with no link activity and no state change (R137, R211). -/
def gated (s : State) (body : State → Res (Option Value)) : Res (Option Value) :=
  if s.chanState ≠ .opened then ⟨.error (.channelState s.chanState), s⟩ else body s

/-! ### The round trip -/

/-- `LinkWriteOrFatal(b)` (R133). -/
def linkWriteOrFatal (b : Bytes) (s : State) : Res Unit :=
  let w := linkWrite b s
  match writeError w.1 with
  | none => ⟨.ok (), w.2⟩
  | some e => fatal e w.2

/-- `ReadFrameOrFatal()` (R133): TIMEOUT, IOError, and the errors of decode are fatal. -/
def readFrameOrFatal (s : State) : Res Frame :=
  let r := linkRead s.cfg.respTimeoutMs s
  match r.1 with
  | .timeout => fatal (.ioError .timeout) r.2
  | .invalidRead => fatal (.ioError .invalidRead) r.2
  | .other => fatal (.ioError .other) r.2
  | .data b =>
    match decodeFrame b with
    | .ok f => ⟨.ok f, r.2⟩
    | .error e => fatal e r.2

/-- The two reads of a round trip and the response check (R133): None when the first frame is not Ack (no second read),
when the second is not Data, or when the response header does not match. -/
def awaitResponse (cmd : Byte) (s : State) : Res (Option Bytes) :=
  (readFrameOrFatal s).andThen fun f1 s1 =>
    if f1.kind ≠ .ack then ⟨.ok none, s1⟩
    else
      (readFrameOrFatal s1).andThen fun f2 s2 =>
        if f2.kind ≠ .data then ⟨.ok none, s2⟩
        else ⟨(payloadOf f2).bind (checkResponse cmd), s2⟩

/-- `send_command(cmd, args)` past its gate (R133): no link activity before the request is built and framed. -/
def roundTrip (cmd : Byte) (args : Bytes) (s : State) : Res (Option Bytes) :=
  match (buildRequest cmd args).bind encodeFrame with
  | .error e => ⟨.error e, s⟩
  | .ok frame => (linkWriteOrFatal frame s).andThen fun _ s1 => awaitResponse cmd s1

/-- A round trip whose results are read by `read`; None propagates (R160, D13). -/
def command (cmd : Byte) (args : Bytes) (read : Bytes → Except Error Value) (s : State) :
    Res (Option Value) :=
  (roundTrip cmd args s).andThen fun o s1 =>
    match o with
    | none => ⟨.ok none, s1⟩
    | some r => ⟨(read r).map some, s1⟩

/-- A gated link operation that ends with its result (R137, R216). -/
def linkOperation (cmd : Byte) (args : Bytes) (read : Bytes → Except Error Value) (s : State) :
    State :=
  finish (gated s (command cmd args read))

/-- The reading of a received response payload to `cmd`: R132's header check, then the results as R69 reads them. -/
def readResponse (cmd : Byte) (read : Bytes → Except Error Value) (p : Bytes) :
    Except Error (Option Value) :=
  match checkResponse cmd p with
  | .error e => .error e
  | .ok none => .ok none
  | .ok (some r) => (read r).map some

end Sys2Proof.Machine
end

