-- ==== Sys2Proof/Machine/Channel.lean ====
section
/-!
DEFINITION. The Channel unit (spec/44_channel.md R180 to R184): open with its drain, and close.
-/

namespace Sys2Proof.Machine

open Sys2Proof

/-- What one drain read means for the drain (R181). -/
inductive DrainVerdict where
  | more
  | quiet
  | failed (e : Error)
  deriving DecidableEq, Repr

/-- One iteration of the drain loop (R181): a transfer is discarded without decoding, TIMEOUT ends the drain, any other
error ends open. -/
def drainRead (s : State) : DrainVerdict × State :=
  let r := linkRead s.cfg.drainTimeoutMs s
  match r.1 with
  | .data _ => (.more, r.2)
  | .timeout => (.quiet, r.2)
  | .invalidRead => (.failed (.ioError .invalidRead), r.2)
  | .other => (.failed (.ioError .other), r.2)

/-- At most `n` iterations of the drain loop. -/
def drainReady : Nat → State → DrainVerdict × State
  | 0, s => (.more, s)
  | n + 1, s =>
    match drainRead s with
    | (.more, s1) => drainReady n s1
    | d => d

/-- An internal command of open: None counts as failing, with ProtocolMismatch (R180, D22). -/
def openCommand (cmd : Byte) (args : Bytes) (s : State) : Res Unit :=
  (command cmd args readStatus s).andThen fun o s1 =>
    match o with
    | none => ⟨.error .protocolMismatch, s1⟩
    | some _ => ⟨.ok (), s1⟩

/-- Step 3 of open: SetCommandType(1), then SwitchRF(false), both ungated (R180). -/
def openCommands (s : State) : Res Unit :=
  (openCommand (commandIndex .setCommandType) [0x01] s).andThen fun _ s1 =>
    openCommand (commandIndex .switchRF) (switchArgs false) s1

/-- The end of open: OPEN on success, FAILED on any error (R180, R182). -/
def openEnd (r : Res Unit) : State :=
  match r.out with
  | .ok _ => reply (.value .nothing) { r.st with chanState := .opened, seq := .start }
  | .error e => reply (.error e) { r.st with chanState := .failed, seq := .start }

/-- Open after some drain reads: still draining, or on to the commands, or failed. -/
def afterDrain (d : DrainVerdict × State) : State :=
  match d.1 with
  | .more => { d.2 with seq := .draining }
  | .quiet => openEnd (openCommands d.2)
  | .failed e => openEnd ⟨.error e, d.2⟩

/-- `open()` (R180). The drain reads the answers the link has ready; where they run out before it is quiet, open stays
in the drain, and each further step is one drain read (`resumeOpen`). -/
def execOpen (s : State) : Host.Outcome State Fault Refusal :=
  .next <|
    if s.chanState ≠ .unopened then reply (.error (.channelState s.chanState)) s
    else
      let w := writeAck s
      match writeError w.1 with
      | some e => openEnd ⟨.error e, w.2⟩
      | none => afterDrain (drainReady w.2.readAnswers.length w.2)

/-- One more drain read of an open that is still draining (R181, R246). -/
def resumeOpen (s : State) : State := afterDrain (drainRead s)

/-- The release sequence of close (R183): SwitchRF(false) ungated with any outcome discarded, the final Ack with any
IOError discarded, LinkClose, CLOSED. -/
def releaseLink (s : State) : State :=
  let s1 := (command (commandIndex .switchRF) (switchArgs false) readStatus s).st
  let s2 := (writeAck s1).2
  { linkClose s2 with chanState := .closed }

/-- `close()`: it always succeeds, and in CLOSED it does nothing (R183, R184). -/
def execClose (s : State) : Host.Outcome State Fault Refusal :=
  .next (reply (.value .nothing) (if s.chanState = .closed then s else releaseLink s))

end Sys2Proof.Machine
end

