-- ==== Sys2Proof/Machine/CodecOps.lean ====
section
/-!
DEFINITION. The meanings of the Codec's host operations (spec/40_codec.md): pure, in every channel state.
-/

namespace Sys2Proof.Machine

open Sys2Proof

/-- `checksum(x)` (R100). -/
def execChecksum (x : Bytes) (s : State) : Host.Outcome State Fault Refusal :=
  .next (finishPure (.ok (.u8 (checksum x))) s)

/-- `checksum_ok(r)` (R101). -/
def execChecksumOk (r : Bytes) (s : State) : Host.Outcome State Fault Refusal :=
  .next (finishPure (.ok (.bool (checksumOk r))) s)

/-- `toLE16(v)` (R102). -/
def execToLE16 (v : U16) (s : State) : Host.Outcome State Fault Refusal :=
  .next (finishPure (.ok (.bytes (toLE16 v))) s)

/-- `fromLE16(b)` (R103). -/
def execFromLE16 (b : Bytes) (s : State) : Host.Outcome State Fault Refusal :=
  .next (finishPure ((fromLE16 b).map .u16) s)

/-- `fromLE32(b)` (R104). -/
def execFromLE32 (b : Bytes) (s : State) : Host.Outcome State Fault Refusal :=
  .next (finishPure ((fromLE32 b).map .u32) s)

end Sys2Proof.Machine
end

