-- ==== Sys2Proof/Machine/Commands.lean ====
section
/-!
DEFINITION. The meanings of send_command (spec/42_dispatch.md R133) and of the seven typed wrappers (43_commands.md R161 to
R167): the gate, then the wrapper's argument checks, then the round trip, then the reading of the results (R215).
-/

namespace Sys2Proof.Machine

open Sys2Proof

/-- `send_command(cmd, args)` (R133). -/
def execSendCommand (cmd : Byte) (args : Bytes) (s : State) : Host.Outcome State Fault Refusal :=
  .next (linkOperation cmd args readRaw s)

/-- `set_command_type(n)` (R161). -/
def execSetCommandType (n : Byte) (s : State) : Host.Outcome State Fault Refusal :=
  .next (linkOperation (commandIndex .setCommandType) [n] readStatus s)

/-- `switch_rf(on)` (R162). -/
def execSwitchRF (on : Bool) (s : State) : Host.Outcome State Fault Refusal :=
  .next (linkOperation (commandIndex .switchRF) (switchArgs on) readStatus s)

/-- The option check of get_firmware_version (R163): None, or a member of `FW_OPTION_SET`. -/
def optionRejected (cfg : ConfigRegs) : Option Byte → Option Error
  | none => none
  | some o => if o ∈ cfg.fwOptionSet then none else some (.parameterError o)

/-- `get_firmware_version(option)` (R163). -/
def execGetFirmwareVersion (option : Option Byte) (s : State) :
    Host.Outcome State Fault Refusal :=
  .next <| finish <| gated s fun s =>
    match optionRejected s.cfg option with
    | some e => ⟨.error e, s⟩
    | none => command (commandIndex .getFirmwareVersion) (optionArgs option) readVersion s

/-- `get_pd_data_version()` (R164). -/
def execGetPDDataVersion (s : State) : Host.Outcome State Fault Refusal :=
  .next (linkOperation (commandIndex .getPDDataVersion) [] readVersion s)

/-- The profile lookups of in_set_rf, send before recv, which is send when absent (R165). -/
def bitrateLookup (cfg : ConfigRegs) (send : Byte) (recv : Option Byte) : Except Error Bytes :=
  match cfg.bitrateTable[send.toNat]? with
  | none => .error (.parameterError send)
  | some t =>
    match cfg.bitrateTable[(recv.getD send).toNat]? with
    | none => .error (.parameterError (recv.getD send))
    | some v => .ok (bitrateArgs t v)

/-- `in_set_rf(send, recv)` (R165). -/
def execInSetRF (send : Byte) (recv : Option Byte) (s : State) : Host.Outcome State Fault Refusal :=
  .next <| finish <| gated s fun s =>
    match bitrateLookup s.cfg send recv with
    | .error e => ⟨.error e, s⟩
    | .ok args => command (commandIndex .inSetRF) args readStatus s

/-- `in_set_protocol(params)` (R166). -/
def execInSetProtocol (params : ProtocolParameters) (s : State) : Host.Outcome State Fault Refusal :=
  .next (linkOperation (commandIndex .inSetProtocol) (protocolArgs s.cfg params) readStatus s)

/-- `in_comm_rf(data, timeout_units)` (R167). -/
def execInCommRF (data : Bytes) (timeoutUnits : S32) (s : State) : Host.Outcome State Fault Refusal :=
  .next (linkOperation (commandIndex .inCommRF) (commArgs (convertTimeout timeoutUnits) data)
    readComm s)

end Sys2Proof.Machine
end

