-- ==== Sys2Proof/Machine/FrameOps.lean ====
section
/-!
DEFINITION. The meanings of the Frame unit's rows: its three host operations (spec/41_frame.md R110, R111, R113) and the
four wire-frame classes of the table (30_encoding.md R60 to R63, R78), which are a transfer handed to the Frame unit.
-/

namespace Sys2Proof.Machine

open Sys2Proof

/-- `encode(command_bytes)` (R110). -/
def execEncode (p : Bytes) (s : State) : Host.Outcome State Fault Refusal :=
  .next (finishPure ((encodeFrame p).map .bytes) s)

/-- `decode(raw)` (R111). Issued by the host, its errors do not latch (R136). -/
def execDecode (raw : Bytes) (s : State) : Host.Outcome State Fault Refusal :=
  .next (finishPure ((decodeFrame raw).map .frame) s)

/-- `payload(frame)` (R113). -/
def execPayload (f : Frame) (s : State) : Host.Outcome State Fault Refusal :=
  .next (finishPure ((payloadOf f).map .bytes) s)

/-- FRAME_ACK: the transfer `00 00 FF 00 FF 00` is classified (R60, R111). -/
def execFrameAck (s : State) : Host.Outcome State Fault Refusal :=
  .next (finishPure ((decodeFrame ackFrame).map .frame) s)

/-- FRAME_ERR: the transfer `00 00 FF FF FF` is classified (R62, R111). -/
def execFrameErr (s : State) : Host.Outcome State Fault Refusal :=
  .next (finishPure ((decodeFrame errFrame).map .frame) s)

/-- FRAME_DATA: a Data candidate is validated (R61, R111). -/
def execFrameData (raw : Bytes) (s : State) : Host.Outcome State Fault Refusal :=
  .next (finishPure ((decodeFrame raw).map .frame) s)

/-- FRAME_UNKNOWN: any other transfer is classified Unknown, which is not an error (R78). -/
def execFrameUnknown (raw : Bytes) (s : State) : Host.Outcome State Fault Refusal :=
  .next (finishPure ((decodeFrame raw).map .frame) s)

end Sys2Proof.Machine
end

