-- ==== Sys2Proof/Machine/Lookup.lean ====
section
/-!
DEFINITION. The meanings of the Dispatch unit's pure host operations (spec/42_dispatch.md R130 to R132, R140, R145, R147,
R150), in every channel state.
-/

namespace Sys2Proof.Machine

open Sys2Proof

/-- `command_opcode(cmd)` (R130). -/
def execCommandOpcode (cmd : Byte) (s : State) : Host.Outcome State Fault Refusal :=
  .next (finishPure ((commandOpcode cmd).map .u8) s)

/-- `build_request(cmd, args)` (R131). -/
def execBuildRequest (cmd : Byte) (args : Bytes) (s : State) : Host.Outcome State Fault Refusal :=
  .next (finishPure ((buildRequest cmd args).map .bytes) s)

/-- `check_response(cmd, p)` (R132). -/
def execCheckResponse (cmd : Byte) (p : Bytes) (s : State) : Host.Outcome State Fault Refusal :=
  .next (finish ⟨readResponse cmd readRaw p, s⟩)

/-- `status_name(code)` (R140). -/
def execStatusName (code : Byte) (s : State) : Host.Outcome State Fault Refusal :=
  .next (finishPure (.ok (.status (statusName code))) s)

/-- `comm_flags(mask)` (R145). -/
def execCommFlags (mask : U32) (s : State) : Host.Outcome State Fault Refusal :=
  .next (finishPure (.ok (.flags (flagNames s.cfg mask) (flagResidue s.cfg mask))) s)

/-- `is_receive_timeout(mask)` (R147). -/
def execIsReceiveTimeout (mask : U32) (s : State) : Host.Outcome State Fault Refusal :=
  .next (finishPure (.ok (.bool (isReceiveTimeout mask))) s)

/-- `convert_timeout(t)` (R150). -/
def execConvertTimeout (t : S32) (s : State) : Host.Outcome State Fault Refusal :=
  .next (finishPure (.ok (.u16 (convertTimeout t))) s)

end Sys2Proof.Machine
end

