-- ==== Sys2Proof/Machine/Requests.lean ====
section
/-!
DEFINITION. The meanings of the seven request payloads of the table (spec/30_encoding.md R64, R68): the Dispatch unit
carries the payload to the chip in one Data frame and reads the response as the command's wrapper does. This is the
inner part of the typed wrappers (43_commands.md R160: a helper the host cannot issue), past their argument checks.
-/

namespace Sys2Proof.Machine

open Sys2Proof

/-- REQ_InSetRF: `D6 00 s0 s1 r2 r3` (R165). -/
def execReqInSetRF (s0 s1 r2 r3 : Byte) (s : State) : Host.Outcome State Fault Refusal :=
  .next (linkOperation (commandIndex .inSetRF) [s0, s1, r2, r3] readStatus s)

/-- REQ_InSetProtocol: `D6 02 k1 v1 k2 v2 ...` (R166). -/
def execReqInSetProtocol (pairs : List (Byte × Byte)) (s : State) : Host.Outcome State Fault Refusal :=
  .next (linkOperation (commandIndex .inSetProtocol) (serializePairs pairs) readStatus s)

/-- REQ_InCommRF: `D6 04 tLo tHi data...` (R167). -/
def execReqInCommRF (t : U16) (data : Bytes) (s : State) : Host.Outcome State Fault Refusal :=
  .next (linkOperation (commandIndex .inCommRF) (commArgs t data) readComm s)

/-- REQ_SwitchRF: `D6 06 01` or `D6 06 00` (R162). -/
def execReqSwitchRF (on : Bool) (s : State) : Host.Outcome State Fault Refusal :=
  .next (linkOperation (commandIndex .switchRF) (switchArgs on) readStatus s)

/-- REQ_SetCommandType: `D6 2A n` (R161). -/
def execReqSetCommandType (n : Byte) (s : State) : Host.Outcome State Fault Refusal :=
  .next (linkOperation (commandIndex .setCommandType) [n] readStatus s)

/-- REQ_GetFirmwareVersion: `D6 20` or `D6 20 option` (R163). -/
def execReqGetFirmwareVersion (option : Option Byte) (s : State) : Host.Outcome State Fault Refusal :=
  .next (linkOperation (commandIndex .getFirmwareVersion) (optionArgs option) readVersion s)

/-- REQ_GetPDDataVersion: `D6 22` (R164). -/
def execReqGetPDDataVersion (s : State) : Host.Outcome State Fault Refusal :=
  .next (linkOperation (commandIndex .getPDDataVersion) [] readVersion s)

end Sys2Proof.Machine
end

