-- ==== Sys2Proof/Machine/Responses.lean ====
section
/-!
DEFINITION. The meanings of the seven response payloads of the table (spec/30_encoding.md R65): the Dispatch unit validates
the header (42_dispatch.md R132) and reads the results as R69 lays them out. It is pure: no gate, no latch.
-/

namespace Sys2Proof.Machine

open Sys2Proof

/-- The payload `D7 op+1 results` of a response to opcode `op` (R65). -/
def responsePayload (op : Byte) (results : Bytes) : Bytes := rspHdr :: (op + 1) :: results

/-- RSP_InSetRF: `D7 01 status ...` (R69, R132). -/
def execRspInSetRF (results : Bytes) (s : State) : Host.Outcome State Fault Refusal :=
  .next (finish ⟨readResponse (commandIndex .inSetRF) readStatus (responsePayload 0x00 results), s⟩)

/-- RSP_InSetProtocol: `D7 03 status ...` (R69, R132). -/
def execRspInSetProtocol (results : Bytes) (s : State) : Host.Outcome State Fault Refusal :=
  .next (finish
    ⟨readResponse (commandIndex .inSetProtocol) readStatus (responsePayload 0x02 results), s⟩)

/-- RSP_InCommRF: `D7 05`, the status word, the length byte, the data (R71, R132). -/
def execRspInCommRF (results : Bytes) (s : State) : Host.Outcome State Fault Refusal :=
  .next (finish ⟨readResponse (commandIndex .inCommRF) readComm (responsePayload 0x04 results), s⟩)

/-- RSP_SwitchRF: `D7 07 status ...` (R69, R132). -/
def execRspSwitchRF (results : Bytes) (s : State) : Host.Outcome State Fault Refusal :=
  .next (finish ⟨readResponse (commandIndex .switchRF) readStatus (responsePayload 0x06 results), s⟩)

/-- RSP_SetCommandType: `D7 2B status ...` (R69, R132). -/
def execRspSetCommandType (results : Bytes) (s : State) : Host.Outcome State Fault Refusal :=
  .next (finish
    ⟨readResponse (commandIndex .setCommandType) readStatus (responsePayload 0x2A results), s⟩)

/-- RSP_GetFirmwareVersion: `D7 21 vLo vHi ...` (R69, R132). -/
def execRspGetFirmwareVersion (results : Bytes) (s : State) : Host.Outcome State Fault Refusal :=
  .next (finish
    ⟨readResponse (commandIndex .getFirmwareVersion) readVersion (responsePayload 0x20 results), s⟩)

/-- RSP_GetPDDataVersion: `D7 23 vLo vHi ...` (R69, R132). -/
def execRspGetPDDataVersion (results : Bytes) (s : State) : Host.Outcome State Fault Refusal :=
  .next (finish
    ⟨readResponse (commandIndex .getPDDataVersion) readVersion (responsePayload 0x22 results), s⟩)

end Sys2Proof.Machine
end

