-- ==== Sys2Proof/Machine/Dispatch.lean ====
section
/-! DEFINITION. The dispatch: one arm per constructor of Instr, each one direct call of its meaning. -/

namespace Sys2Proof.Machine

open Sys2Proof

def exec (i : Instr) (s : State) : Host.Outcome State Fault Refusal :=
  match i with
  -- wire frames
  | .frameAck => Sys2Proof.Machine.execFrameAck s
  | .frameErr => Sys2Proof.Machine.execFrameErr s
  | .frameData raw => Sys2Proof.Machine.execFrameData raw s
  | .frameUnknown raw => Sys2Proof.Machine.execFrameUnknown raw s
  -- request payloads
  | .reqInSetRF s0 s1 r2 r3 => Sys2Proof.Machine.execReqInSetRF s0 s1 r2 r3 s
  | .reqInSetProtocol pairs => Sys2Proof.Machine.execReqInSetProtocol pairs s
  | .reqInCommRF t data => Sys2Proof.Machine.execReqInCommRF t data s
  | .reqSwitchRF on => Sys2Proof.Machine.execReqSwitchRF on s
  | .reqSetCommandType n => Sys2Proof.Machine.execReqSetCommandType n s
  | .reqGetFirmwareVersion option => Sys2Proof.Machine.execReqGetFirmwareVersion option s
  | .reqGetPDDataVersion => Sys2Proof.Machine.execReqGetPDDataVersion s
  -- response payloads
  | .rspInSetRF results => Sys2Proof.Machine.execRspInSetRF results s
  | .rspInSetProtocol results => Sys2Proof.Machine.execRspInSetProtocol results s
  | .rspInCommRF results => Sys2Proof.Machine.execRspInCommRF results s
  | .rspSwitchRF results => Sys2Proof.Machine.execRspSwitchRF results s
  | .rspSetCommandType results => Sys2Proof.Machine.execRspSetCommandType results s
  | .rspGetFirmwareVersion results => Sys2Proof.Machine.execRspGetFirmwareVersion results s
  | .rspGetPDDataVersion results => Sys2Proof.Machine.execRspGetPDDataVersion results s
  -- host operations
  | .checksum x => Sys2Proof.Machine.execChecksum x s
  | .checksumOk r => Sys2Proof.Machine.execChecksumOk r s
  | .toLE16 v => Sys2Proof.Machine.execToLE16 v s
  | .fromLE16 b => Sys2Proof.Machine.execFromLE16 b s
  | .fromLE32 b => Sys2Proof.Machine.execFromLE32 b s
  | .encode p => Sys2Proof.Machine.execEncode p s
  | .decode raw => Sys2Proof.Machine.execDecode raw s
  | .payload f => Sys2Proof.Machine.execPayload f s
  | .commandOpcode cmd => Sys2Proof.Machine.execCommandOpcode cmd s
  | .buildRequest cmd args => Sys2Proof.Machine.execBuildRequest cmd args s
  | .checkResponse cmd p => Sys2Proof.Machine.execCheckResponse cmd p s
  | .sendCommand cmd args => Sys2Proof.Machine.execSendCommand cmd args s
  | .statusName code => Sys2Proof.Machine.execStatusName code s
  | .commFlags mask => Sys2Proof.Machine.execCommFlags mask s
  | .isReceiveTimeout mask => Sys2Proof.Machine.execIsReceiveTimeout mask s
  | .convertTimeout t => Sys2Proof.Machine.execConvertTimeout t s
  | .setCommandType n => Sys2Proof.Machine.execSetCommandType n s
  | .switchRF on => Sys2Proof.Machine.execSwitchRF on s
  | .getFirmwareVersion option => Sys2Proof.Machine.execGetFirmwareVersion option s
  | .getPDDataVersion => Sys2Proof.Machine.execGetPDDataVersion s
  | .inSetRF send recv => Sys2Proof.Machine.execInSetRF send recv s
  | .inSetProtocol params => Sys2Proof.Machine.execInSetProtocol params s
  | .inCommRF data timeoutUnits => Sys2Proof.Machine.execInCommRF data timeoutUnits s
  | .openChannel => Sys2Proof.Machine.execOpen s
  | .closeChannel => Sys2Proof.Machine.execClose s

end Sys2Proof.Machine
end

