-- ==== Sys2Proof/Machine/Fetch.lean ====
section
/-!
DEFINITION. How the FCD takes the next thing to perform: decoding an item, the answer to an undefined selector, and what
one step does.
-/

namespace Sys2Proof.Machine

open Sys2Proof

/-- Perform one item taken off the queue. An undefined selector ends with IllegalOp, with no state change and no link
activity (spec/60_exceptions.md R213). -/
def perform (it : Item) (s : State) : Host.Outcome State Fault Refusal :=
  match decodeItem it with
  | .ok i => exec i s
  | .error (.illegalSelector sel) => .next (reply (.error (.illegalOp sel)) s)
  | .error .malformedOperands => .refused .malformedOperands
  | .error .unknownPayload => .refused .unknownPayload

/-- One step. An open that is draining goes on with its drain, so no other operation falls between the link
interactions of one operation (20_memory.md R51). Otherwise the FCD performs the next operation, in the order the host
issued them (R50); with none issued it does nothing, since it takes no action of its own (44_channel.md R185). -/
def performNext (s : State) : Host.Outcome State Fault Refusal :=
  match s.seq with
  | .draining => .next (resumeOpen s)
  | .start =>
    match s.hostQueue with
    | [] => .next s
    | it :: rest => perform it { s with hostQueue := rest }

/-- The state whose next step performs `it`: no operation running, and `it` issued next. -/
def issueFirst (it : Item) (s : State) : State :=
  { s with seq := .start, hostQueue := it :: s.hostQueue }

end Sys2Proof.Machine
end

