-- ==== Sys2Proof/Machine/Step.lean ====
section
/-!
DEFINITION. One step of the machine, and the state in which the next step performs a given word of the opcode table. What
they do stands in Machine/Fetch.lean and Decode.lean.
-/

namespace Sys2Proof.Machine

open Sys2Proof

/-- One step of the machine. -/
def step (s : State) : Host.Outcome State Fault Refusal := performNext s

/-- The state whose next step performs the instruction of a table word. -/
def State.withFetchWord (s : State) (nbits w : Nat) : State := issueFirst (tableItem nbits w) s

end Sys2Proof.Machine
end

