-- ==== Sys2Proof/Safety.lean ====
section
/-!
DEFINITION. What counts as a safe state of the FCD and its link, and the words the statements are written in: which
instructions use the link, what a legal link interaction is, and the invariant that every step keeps.
-/

namespace Sys2Proof.Machine

open Sys2Proof

/-! ### Kinds of instruction -/

/-- send_command, the seven typed wrappers and the seven request payloads: one gated round trip each
(spec/42_dispatch.md R133, R137). -/
def isRoundTrip : Instr → Bool
  | .frameAck => false
  | .frameErr => false
  | .frameData _ => false
  | .frameUnknown _ => false
  | .reqInSetRF _ _ _ _ => true
  | .reqInSetProtocol _ => true
  | .reqInCommRF _ _ => true
  | .reqSwitchRF _ => true
  | .reqSetCommandType _ => true
  | .reqGetFirmwareVersion _ => true
  | .reqGetPDDataVersion => true
  | .rspInSetRF _ => false
  | .rspInSetProtocol _ => false
  | .rspInCommRF _ => false
  | .rspSwitchRF _ => false
  | .rspSetCommandType _ => false
  | .rspGetFirmwareVersion _ => false
  | .rspGetPDDataVersion _ => false
  | .checksum _ => false
  | .checksumOk _ => false
  | .toLE16 _ => false
  | .fromLE16 _ => false
  | .fromLE32 _ => false
  | .encode _ => false
  | .decode _ => false
  | .payload _ => false
  | .commandOpcode _ => false
  | .buildRequest _ _ => false
  | .checkResponse _ _ => false
  | .sendCommand _ _ => true
  | .statusName _ => false
  | .commFlags _ => false
  | .isReceiveTimeout _ => false
  | .convertTimeout _ => false
  | .setCommandType _ => true
  | .switchRF _ => true
  | .getFirmwareVersion _ => true
  | .getPDDataVersion => true
  | .inSetRF _ _ => true
  | .inSetProtocol _ => true
  | .inCommRF _ _ => true
  | .openChannel => false
  | .closeChannel => false

/-- The operations that use no state and no link (30_encoding.md R80, the rows marked "no", and the payloads and
transfers the FCD only reads). -/
def isPure (i : Instr) : Bool :=
  !isRoundTrip i && i != .openChannel && i != .closeChannel

/-! ### Legal link activity -/

/-- A request payload the FCD may emit: header D6, one of the seven opcodes, and a length a Data frame can carry
(R64, R66, R76). -/
def IsRequest (p : Bytes) : Prop :=
  ∃ op args, p = 0xD6 :: op :: args ∧
    op ∈ ([0x00, 0x02, 0x04, 0x06, 0x2A, 0x20, 0x22] : Bytes) ∧ p.length ≤ 65535

/-- What one `LinkWrite` carries: an Ack frame, or the Data frame of a request (20_memory.md R46). -/
def IsWholeFrame (b : Bytes) : Prop := b = ackFrame ∨ ∃ p, IsRequest p ∧ b = dataFrame p

/-- A link interaction as R15, R46 and R47 allow it. -/
def EventLegal (cfg : ConfigRegs) : LinkEvent → Prop
  | .write offered answer delivered =>
    IsWholeFrame offered ∧ delivered <+: offered ∧ (answer = .ok → delivered = offered)
  | .read t answer => (t = cfg.respTimeoutMs ∨ t = cfg.drainTimeoutMs) ∧ answer ≠ .data []
  | .close => True

/-! ### The invariant -/

/-- `COMM_FLAG_BIT` as R146 requires it: distinct single bits, none of them 0x80 or 0x80000000. -/
def FlagBitsLegal (bits : List U32) : Prop :=
  bits.Nodup ∧ ∀ b ∈ bits, ∃ k, k < 32 ∧ k ≠ 7 ∧ k ≠ 31 ∧ b = BitVec.twoPow 32 k

/-- What holds of the FCD between any two steps. -/
structure Inv (s : State) : Prop where
  /-- `PROTOCOL_KEY_ID` maps the 19 fields to 19 distinct bytes (30_encoding.md R73). -/
  keysDistinct : s.cfg.protocolKeyId.toList.Nodup
  /-- `COMM_FLAG_BIT` is legal (42_dispatch.md R146). -/
  flagBits : FlagBitsLegal s.cfg.commFlagBit.toList
  /-- Only an open that has not completed drains (44_channel.md R180, R181). -/
  drainUnopened : s.seq = .draining → s.chanState = .unopened
  /-- Every interaction on the link was legal (20_memory.md R46, R47). -/
  eventsLegal : ∀ e ∈ s.trace, EventLegal s.cfg e
  /-- LinkClose was issued once if the channel is CLOSED and never otherwise (44_channel.md R183, R184). -/
  closeOnce : s.trace.count .close = if s.chanState = .closed then 1 else 0

/-! ### Link scripts and their results -/

/-- The link accepts the next write, answers the two reads with the Ack and with a transfer that decode classifies Data
with payload `p`, and the channel is OPEN; `ws` and `rs` are the answers after that. -/
def Responds (s : State) (p raw : Bytes) (ws : List WriteAnswer) (rs : List ReadAnswer) : Prop :=
  s.chanState = .opened ∧ s.writeAnswers = .ok :: ws ∧
    s.readAnswers = .data ackFrame :: .data raw :: rs ∧
    decodeFrame raw = .ok ⟨raw, .data⟩ ∧ payloadOf ⟨raw, .data⟩ = .ok p

/-- The three link interactions of a whole round trip (42_dispatch.md R133). -/
def exchange (cfg : ConfigRegs) (request raw : Bytes) : List LinkEvent :=
  [.write (dataFrame request) .ok (dataFrame request),
   .read cfg.respTimeoutMs (.data ackFrame), .read cfg.respTimeoutMs (.data raw)]

/-- The state after a whole round trip that returned `r`: nothing else has changed. -/
def afterExchange (s : State) (request raw : Bytes) (ws : List WriteAnswer) (rs : List ReadAnswer)
    (r : Reply) : State :=
  { s with
    writeAnswers := ws
    readAnswers := rs
    trace := s.trace ++ exchange s.cfg request raw
    replies := s.replies ++ [r] }

/-- What the results of a status command mean (43_commands.md R160). -/
def statusReply : Bytes → Reply
  | [] => .error (.resultShape 0)
  | c :: _ => if c = 0 then .value .nothing else .error (.statusError c (statusName c))

/-- What the results of a version command mean (R163, R164). -/
def versionReply : Bytes → Reply
  | lo :: hi :: _ => .value (.u16 (hi ++ lo))
  | r => .error (.resultShape r.length)

/-- What the results of InCommRF mean (R167). -/
def commReply : Bytes → Reply
  | s0 :: s1 :: s2 :: s3 :: rest =>
    if (s3 ++ s2 ++ s1 ++ s0 : U32) ≠ 0 then .error (.communicationError (s3 ++ s2 ++ s1 ++ s0))
    else
      match rest with
      | [] => .error (.resultShape 4)
      | _ :: out => .value (.bytes out)
  | r => .error (.resultShape r.length)

/-! ### What a round trip asks, and answers that are no result -/

/-- With the configuration `cfg`, the round trip `i` passes its argument checks and sends the request of opcode `op` with
`args`: send_command by R131 and R133, each typed wrapper by its rule of R161 to R167, and a request payload with the
args it carries (log entry 6). -/
inductive Sends (cfg : ConfigRegs) : Instr → Byte → Bytes → Prop where
  | sendCommand {cmd op : Byte} {args : Bytes} : commandOpcode cmd = .ok op → args.length ≤ 65533 →
      Sends cfg (.sendCommand cmd args) op args
  | setCommandType (n : Byte) : Sends cfg (.setCommandType n) 0x2A [n]
  | switchRF (on : Bool) : Sends cfg (.switchRF on) 0x06 [if on then 0x01 else 0x00]
  | getFirmwareVersion {option : Option Byte} : (∀ o, option = some o → o ∈ cfg.fwOptionSet) →
      Sends cfg (.getFirmwareVersion option) 0x20 option.toList
  | getPDDataVersion : Sends cfg .getPDDataVersion 0x22 []
  | inSetRF {send : Byte} {recv : Option Byte} {t v : BitrateTuple} :
      cfg.bitrateTable[send.toNat]? = some t → cfg.bitrateTable[(recv.getD send).toNat]? = some v →
      Sends cfg (.inSetRF send recv) 0x00 [t.b0, t.b1, v.b2, v.b3]
  | inSetProtocol (params : ProtocolParameters) :
      Sends cfg (.inSetProtocol params) 0x02 (protocolArgs cfg params)
  | inCommRF {data : Bytes} (units : S32) : data.length ≤ 65531 →
      Sends cfg (.inCommRF data units) 0x04 (toLE16 (convertTimeout units) ++ data)
  | reqSetCommandType (n : Byte) : Sends cfg (.reqSetCommandType n) 0x2A [n]
  | reqSwitchRF (on : Bool) : Sends cfg (.reqSwitchRF on) 0x06 [if on then 0x01 else 0x00]
  | reqGetFirmwareVersion (option : Option Byte) :
      Sends cfg (.reqGetFirmwareVersion option) 0x20 option.toList
  | reqGetPDDataVersion : Sends cfg .reqGetPDDataVersion 0x22 []
  | reqInSetRF (s0 s1 r2 r3 : Byte) : Sends cfg (.reqInSetRF s0 s1 r2 r3) 0x00 [s0, s1, r2, r3]
  | reqInSetProtocol {pairs : List (Byte × Byte)} : 2 * pairs.length ≤ 65533 →
      Sends cfg (.reqInSetProtocol pairs) 0x02 (pairs.flatMap fun p => [p.1, p.2])
  | reqInCommRF (t : U16) {data : Bytes} : data.length ≤ 65531 →
      Sends cfg (.reqInCommRF t data) 0x04 (toLE16 t ++ data)

/-- The reads of a round trip that is a protocol mismatch (60_exceptions.md R205): a first frame that is not Ack, a
second that is not Data, or a Data frame without the response header of `op`. -/
inductive Mismatched (op : Byte) : List ReadAnswer → Prop where
  | notAck {raw : Bytes} {k : FrameKind} : raw ≠ [] → decodeFrame raw = .ok ⟨raw, k⟩ → k ≠ .ack →
      Mismatched op [.data raw]
  | notData {raw : Bytes} {k : FrameKind} : raw ≠ [] → decodeFrame raw = .ok ⟨raw, k⟩ → k ≠ .data →
      Mismatched op [.data ackFrame, .data raw]
  | header {raw p : Bytes} : decodeFrame raw = .ok ⟨raw, .data⟩ → payloadOf ⟨raw, .data⟩ = .ok p →
      (¬ ∃ results, p = 0xD7 :: (op + 1) :: results) → Mismatched op [.data ackFrame, .data raw]

/-! ### The parts of open -/

/-- Open can begin, and the link accepts its Ack, delivers the transfers `stale` and goes quiet (44_channel.md R180,
R181); `ws` and `rs` are the answers after that. -/
def Normalizes (s : State) (stale : List Bytes) (ws : List WriteAnswer) (rs : List ReadAnswer) : Prop :=
  s.chanState = .unopened ∧ s.writeAnswers = .ok :: ws ∧ (∀ b ∈ stale, b ≠ []) ∧
    s.readAnswers = stale.map .data ++ .timeout :: rs

/-- The state once open has written its Ack and its drain has read `stale` and gone quiet. -/
def drained (s : State) (stale : List Bytes) (ws : List WriteAnswer) (rs : List ReadAnswer) : State :=
  { s with
    writeAnswers := ws
    readAnswers := rs
    trace := s.trace ++ [.write ackFrame .ok ackFrame] ++
      stale.map (fun b => .read s.cfg.drainTimeoutMs (.data b)) ++ [.read s.cfg.drainTimeoutMs .timeout] }

/-- The state an open ends in that fails with `r` after the further link interactions `l` (R182). -/
def failedOpen (d : State) (l : List LinkEvent) (r : Reply) : State :=
  { d with chanState := .failed, seq := .start, trace := d.trace ++ l, replies := d.replies ++ [r] }

/-- What open makes of the result of one of its commands: None is ProtocolMismatch, an error is itself (R180, D22). -/
def openReply : Reply → Reply
  | .noResult => .error .protocolMismatch
  | r => r

/-- `o` is what open does from the state `d` in which its drain has ended: SetCommandType(1) and then SwitchRF(false)
as the wrappers perform them, the second only after a success of the first; OPEN after two successes, otherwise FAILED
with what the failing command answered (R180, R182, D22). -/
def EndsAsItsCommands (d : State) (o : Host.Outcome State Fault Refusal) : Prop :=
  ∃ t1 r1, exec (.setCommandType 0x01) { d with chanState := .opened } = .next t1 ∧
    t1.replies = d.replies ++ [r1] ∧
    (r1 ≠ .value .nothing → o = .next { t1 with
      chanState := .failed, seq := .start, replies := d.replies ++ [openReply r1] }) ∧
    (r1 = .value .nothing → ∃ t2 r2, exec (.switchRF false) { t1 with replies := d.replies } = .next t2 ∧
      t2.replies = d.replies ++ [r2] ∧
      o = .next { t2 with
        chanState := if r2 = .value .nothing then .opened else .failed
        seq := .start
        replies := d.replies ++ [openReply r2] })

/-- The transitions of `chan_state` that one operation or one drain read can make (10_state.md R24); staying is always
one of them. -/
def chanStep : ChanState → ChanState → Bool
  | .unopened, .opened => true
  | .unopened, .failed => true
  | .opened, .failed => true
  | .unopened, .closed => true
  | .opened, .closed => true
  | .failed, .closed => true
  | a, b => a == b

end Sys2Proof.Machine
end

