-- ==== Sys2Proof/Certificates/Slice0/Obligations.lean ====
section
/-!
DEFINITION. The statements for the provers. A statement says what `exec` or `step` answers; an equation with a whole next
state is at once the result, the completion and the frame: every field it does not name is unchanged.
-/

open Sys2Proof Sys2Proof.Machine

/-! ### The Codec -/

/-- R100: checksum returns the unique byte that makes the unbounded sum 0 mod 256, and changes nothing else. -/
def Obligations.ChecksumIsTheUniqueByteThatMakesTheSumZero : Prop :=
  ∀ (x : Bytes) (s : State), ∃ c : Byte,
    exec (.checksum x) s = .next { s with replies := s.replies ++ [.value (.u8 c)] } ∧
    ((x.map BitVec.toNat).sum + c.toNat) % 256 = 0 ∧
    ∀ d : Byte, ((x.map BitVec.toNat).sum + d.toNat) % 256 = 0 → d = c

/-- R101: checksum_ok tests whether the sum is 0 mod 256; so a range with a trailing byte passes exactly when that byte
is the one checksum returns for the range (the spec's own inference from R100). -/
def Obligations.ChecksumOkAcceptsExactlyTheChecksumByte : Prop :=
  (∀ (r : Bytes) (s : State), exec (.checksumOk r) s =
    .next { s with replies := s.replies ++ [.value (.bool (decide ((r.map BitVec.toNat).sum % 256 = 0)))] }) ∧
  ∀ (x : Bytes) (s : State), ∃ c : Byte,
    exec (.checksum x) s = .next { s with replies := s.replies ++ [.value (.u8 c)] } ∧
    ∀ d : Byte, exec (.checksumOk (x ++ [d])) s =
      .next { s with replies := s.replies ++ [.value (.bool (decide (d = c)))] }

/-- R102: toLE16 returns the low byte, then the high byte. -/
def Obligations.ToLE16ReturnsLowByteThenHighByte : Prop :=
  ∀ (v : U16) (s : State), ∃ lo hi : Byte,
    exec (.toLE16 v) s = .next { s with replies := s.replies ++ [.value (.bytes [lo, hi])] } ∧
    v.toNat = lo.toNat + 256 * hi.toNat

/-- R103: fromLE16 reads exactly two bytes, the lower index being less significant; any other length is ResultShape (the
spec's decision D12). -/
def Obligations.FromLE16ReadsTwoBytesLittleEndian : Prop :=
  (∀ (b0 b1 : Byte) (s : State), ∃ v : U16,
    exec (.fromLE16 [b0, b1]) s = .next { s with replies := s.replies ++ [.value (.u16 v)] } ∧
    v.toNat = b0.toNat + 256 * b1.toNat) ∧
  ∀ (b : Bytes) (s : State), b.length ≠ 2 →
    exec (.fromLE16 b) s = .next { s with replies := s.replies ++ [.error (.resultShape b.length)] }

/-- R104: fromLE32 reads exactly four bytes, little-endian; any other length is ResultShape (the spec's decision D12). -/
def Obligations.FromLE32ReadsFourBytesLittleEndian : Prop :=
  (∀ (b0 b1 b2 b3 : Byte) (s : State), ∃ v : U32,
    exec (.fromLE32 [b0, b1, b2, b3]) s = .next { s with replies := s.replies ++ [.value (.u32 v)] } ∧
    v.toNat = b0.toNat + 256 * b1.toNat + 65536 * b2.toNat + 16777216 * b3.toNat) ∧
  ∀ (b : Bytes) (s : State), b.length ≠ 4 →
    exec (.fromLE32 b) s = .next { s with replies := s.replies ++ [.error (.resultShape b.length)] }

/-! ### The Frame unit -/

/-- R61, R110: encode lays out preamble, little-endian length, length checksum, payload, payload checksum, trailer; both
protected ranges sum to 0 mod 256. A payload longer than 65535 bytes is LengthRange (the spec's decision D8). -/
def Obligations.EncodeLaysOutADataFrame : Prop :=
  ∀ (p : Bytes) (s : State),
    (p.length ≤ 65535 → ∃ lo hi lc pc : Byte,
      exec (.encode p) s = .next { s with
        replies := s.replies ++
          [.value (.bytes ([0x00, 0x00, 0xFF, 0xFF, 0xFF, lo, hi, lc] ++ p ++ [pc, 0x00]))] } ∧
      lo.toNat + 256 * hi.toNat = p.length ∧
      (lo.toNat + hi.toNat + lc.toNat) % 256 = 0 ∧
      ((p.map BitVec.toNat).sum + pc.toNat) % 256 = 0) ∧
    (p.length > 65535 →
      exec (.encode p) s = .next { s with replies := s.replies ++ [.error (.lengthRange p.length)] })

/-- R111, R214 (with the spec's decisions D5, D6, D7, D35): the eight outcomes of decode, in the order of its checks. -/
def Obligations.DecodeChecksInOrder : Prop :=
  ∀ (raw : Bytes) (s : State), ∃ r : Reply,
    exec (.decode raw) s = .next { s with replies := s.replies ++ [r] } ∧
    (if raw = [0x00, 0x00, 0xFF, 0x00, 0xFF, 0x00] then r = .value (.frame ⟨raw, .ack⟩)
     else if raw = [0x00, 0x00, 0xFF, 0xFF, 0xFF] then r = .value (.frame ⟨raw, .err⟩)
     else if ¬ (raw[3]? = some 0xFF ∧ raw[4]? = some 0xFF) then r = .value (.frame ⟨raw, .unknown⟩)
     else if raw.length < 8 then r = .error (.truncated raw.length)
     else if ((raw.getD 5 0).toNat + (raw.getD 6 0).toNat + (raw.getD 7 0).toNat) % 256 ≠ 0 then
       r = .error (.checksumMismatch .length)
     else if raw.length < 9 + ((raw.getD 5 0).toNat + 256 * (raw.getD 6 0).toNat) then
       r = .error (.truncated raw.length)
     else if (((raw.drop 8).take ((raw.getD 5 0).toNat + 256 * (raw.getD 6 0).toNat + 1)).map
         BitVec.toNat).sum % 256 ≠ 0 then
       r = .error (.checksumMismatch .payload)
     else r = .value (.frame ⟨raw, .data⟩))

/-- R117 (the spec's own inference): a transfer is classified Ack only if it is the Ack constant, and Err only if it is the Err
constant. -/
def Obligations.AckAndErrAreExactMatch : Prop :=
  ∀ (raw : Bytes) (s : State),
    (exec (.decode raw) s = .next { s with replies := s.replies ++ [.value (.frame ⟨raw, .ack⟩)] } ↔
      raw = [0x00, 0x00, 0xFF, 0x00, 0xFF, 0x00]) ∧
    (exec (.decode raw) s = .next { s with replies := s.replies ++ [.value (.frame ⟨raw, .err⟩)] } ↔
      raw = [0x00, 0x00, 0xFF, 0xFF, 0xFF])

/-- R116 (the spec's own inference): encode, then decode, then payload gives the payload back. -/
def Obligations.FrameRoundTripReturnsThePayload : Prop :=
  ∀ (p : Bytes) (s : State), p.length ≤ 65535 → ∃ f : Bytes,
    exec (.encode p) s = .next { s with replies := s.replies ++ [.value (.bytes f)] } ∧
    exec (.decode f) s = .next { s with replies := s.replies ++ [.value (.frame ⟨f, .data⟩)] } ∧
    exec (.payload ⟨f, .data⟩) s = .next { s with replies := s.replies ++ [.value (.bytes p)] }

/-- R113 (with the spec's decision D44): payload of a Data frame that decode returned is the slice of L bytes at offset
8, which the frame holds whole; of any other kind it is NotDataFrame. -/
def Obligations.PayloadIsTheSliceAtOffsetEight : Prop :=
  (∀ (raw : Bytes) (s : State), decodeFrame raw = .ok ⟨raw, .data⟩ → ∃ p : Bytes,
    exec (.payload ⟨raw, .data⟩) s = .next { s with replies := s.replies ++ [.value (.bytes p)] } ∧
    p.length = (raw.getD 5 0).toNat + 256 * (raw.getD 6 0).toNat ∧
    p <+: raw.drop 8) ∧
  ∀ (f : Frame) (s : State), f.kind ≠ .data →
    exec (.payload f) s = .next { s with replies := s.replies ++ [.error (.notDataFrame f.kind)] }

/-- R60, R62, R61, R78: a transfer of each wire-frame row gets the row's class; a FRAME_DATA transfer gets exactly what
decode answers for it. That a transfer can be presented by itself is the model's choice (log entry 5). -/
def Obligations.WireFramesGetTheirClass : Prop :=
  ∀ s : State,
    exec .frameAck s = .next { s with
      replies := s.replies ++ [.value (.frame ⟨[0x00, 0x00, 0xFF, 0x00, 0xFF, 0x00], .ack⟩)] } ∧
    exec .frameErr s = .next { s with
      replies := s.replies ++ [.value (.frame ⟨[0x00, 0x00, 0xFF, 0xFF, 0xFF], .err⟩)] } ∧
    (∀ raw, WellFormed (.frameUnknown raw) = true → exec (.frameUnknown raw) s =
      .next { s with replies := s.replies ++ [.value (.frame ⟨raw, .unknown⟩)] }) ∧
    (∀ p pre : Bytes, pre.length = 3 → p.length ≤ 65535 →
      exec (.frameData (pre ++ (dataFrame p).drop 3)) s = .next { s with
        replies := s.replies ++ [.value (.frame ⟨pre ++ (dataFrame p).drop 3, .data⟩)] }) ∧
    (∀ raw, exec (.frameData raw) s = exec (.decode raw) s)

/-! ### Lookup and interpretation -/

/-- R66, R130: the seven opcodes by command index; any other index is ParameterError (the spec's decision D2). -/
def Obligations.CommandOpcodesAreTheTable : Prop :=
  ∀ (cmd : Byte) (s : State), ∃ r : Reply,
    exec (.commandOpcode cmd) s = .next { s with replies := s.replies ++ [r] } ∧
    (if cmd = 0 then r = .value (.u8 0x00)
     else if cmd = 1 then r = .value (.u8 0x02)
     else if cmd = 2 then r = .value (.u8 0x04)
     else if cmd = 3 then r = .value (.u8 0x06)
     else if cmd = 4 then r = .value (.u8 0x2A)
     else if cmd = 5 then r = .value (.u8 0x20)
     else if cmd = 6 then r = .value (.u8 0x22)
     else r = .error (.parameterError cmd))

/-- R131 (with the spec's decisions D2 and D8): build_request puts D6 and the opcode before the args, unless the command
index or the length is out of range. -/
def Obligations.BuildRequestPrependsTheHeader : Prop :=
  ∀ (cmd : Byte) (args : Bytes) (s : State), ∃ r : Reply,
    exec (.buildRequest cmd args) s = .next { s with replies := s.replies ++ [r] } ∧
    (if cmd.toNat > 6 then r = .error (.parameterError cmd)
     else if args.length > 65533 then r = .error (.lengthRange (2 + args.length))
     else ∃ op : Byte,
       exec (.commandOpcode cmd) s = .next { s with replies := s.replies ++ [.value (.u8 op)] } ∧
       r = .value (.bytes (0xD6 :: op :: args)))

/-- R132 (with the spec's decisions D9 and D10): check_response returns what follows `D7 op+1`, None for every other
payload, and ParameterError for a command index over 6. -/
def Obligations.CheckResponseStripsAMatchingHeader : Prop :=
  ∀ (cmd : Byte) (p : Bytes) (s : State),
    (cmd.toNat > 6 → exec (.checkResponse cmd p) s =
      .next { s with replies := s.replies ++ [.error (.parameterError cmd)] }) ∧
    (∀ op : Byte, commandOpcode cmd = .ok op →
      (∀ results, p = 0xD7 :: (op + 1) :: results → exec (.checkResponse cmd p) s =
        .next { s with replies := s.replies ++ [.value (.bytes results)] }) ∧
      ((¬ ∃ results, p = 0xD7 :: (op + 1) :: results) → exec (.checkResponse cmd p) s =
        .next { s with replies := s.replies ++ [.noResult] }))

/-- R74, R140: the eight names of the status bytes 0 to 7 (1 to 7 by the spec's decision D17), the raw byte kept for the
others. -/
def Obligations.StatusNamesAreTheTable : Prop :=
  ∀ (code : Byte) (s : State), ∃ n : StatusName,
    exec (.statusName code) s = .next { s with replies := s.replies ++ [.value (.status n)] } ∧
    (if code = 0 then n = .success
     else if code = 1 then n = .parameterError
     else if code = 2 then n = .pbError
     else if code = 3 then n = .rfcaError
     else if code = 4 then n = .temperatureError
     else if code = 5 then n = .pwdError
     else if code = 6 then n = .receiveError
     else if code = 7 then n = .commandTypeError
     else n = .unknown code)

/-- R145, R146: comm_flags returns the flags whose bit is set, in table order, and the set bits that no flag names. -/
def Obligations.CommFlagsNamesTheSetBits : Prop :=
  ∀ (mask : U32) (s : State),
    let bits := s.cfg.commFlagBit
    let table : List (CommFlag × U32) :=
      [(.protocol, bits[0]), (.parity, bits[1]), (.crc, bits[2]), (.collision, bits[3]), (.overflow, bits[4]),
       (.temperature, bits[5]), (.receiveTimeout, 0x80), (.crypto1, bits[6]), (.rfca, bits[7]), (.rfOff, bits[8]),
       (.transmitTimeout, bits[9]), (.receiveLength, 0x80000000)]
    ∃ residue : U32,
      exec (.commFlags mask) s = .next { s with
        replies := s.replies ++
          [.value (.flags ((table.filter fun f => mask &&& f.2 != 0).map Prod.fst) residue)] } ∧
      ∀ k, k < 32 → residue.getLsbD k =
        (mask.getLsbD k && !(table.any fun f => f.2.getLsbD k))

/-- R145, R28: whatever legal bits the unnumbered flags have, the two numbered ones are named as the document numbers
them. -/
def Obligations.NumberedFlagsDoNotDependOnTheConfiguration : Prop :=
  ∀ s : State, FlagBitsLegal s.cfg.commFlagBit.toList →
    exec (.commFlags 0) s = .next { s with replies := s.replies ++ [.value (.flags [] 0)] } ∧
    exec (.commFlags 0x80) s =
      .next { s with replies := s.replies ++ [.value (.flags [.receiveTimeout] 0)] } ∧
    exec (.commFlags 0x80000000) s =
      .next { s with replies := s.replies ++ [.value (.flags [.receiveLength] 0)] } ∧
    exec (.commFlags 0x80000080) s =
      .next { s with replies := s.replies ++ [.value (.flags [.receiveTimeout, .receiveLength] 0)] }

/-- R147: is_receive_timeout reads bit 7 of the word and no other bit. -/
def Obligations.IsReceiveTimeoutReadsBitSeven : Prop :=
  ∀ (mask : U32) (s : State), exec (.isReceiveTimeout mask) s =
    .next { s with replies := s.replies ++ [.value (.bool (mask.getLsbD 7))] }

/-- R150 (with the spec's decision D16): the comparator form of the timeout conversion. -/
def Obligations.ConvertTimeoutScalesAndSaturates : Prop :=
  ∀ (t : S32) (s : State), ∃ v : U16,
    exec (.convertTimeout t) s = .next { s with replies := s.replies ++ [.value (.u16 v)] } ∧
    (if t.toInt ≤ 0 then v.toNat = 0
     else if t.toInt ≤ 6553 then (v.toNat : Int) = 10 * t.toInt
     else v.toNat = 0xFFFF)

/-! ### The round trip -/

/-- R137, R211 (the spec's decisions D21, D37): every round-trip operation outside OPEN, and open outside UNOPENED, ends
with ChannelState, with no link activity and no state change. That a request payload is such an operation is the model's
choice (log entry 6). -/
def Obligations.LinkOperationsAreGated : Prop :=
  ∀ (i : Instr) (s : State),
    (isRoundTrip i = true ∧ s.chanState ≠ .opened ∨ i = .openChannel ∧ s.chanState ≠ .unopened) →
    exec i s = .next { s with replies := s.replies ++ [.error (.channelState s.chanState)] }

/-- R133, R134: a command index or a length out of range ends send_command with nothing written (the spec's decisions D2
and D8). -/
def Obligations.SendCommandRejectsArgumentsBeforeTheLink : Prop :=
  ∀ (cmd : Byte) (args : Bytes) (s : State), s.chanState = .opened →
    (cmd.toNat > 6 → exec (.sendCommand cmd args) s =
      .next { s with replies := s.replies ++ [.error (.parameterError cmd)] }) ∧
    (cmd.toNat ≤ 6 → args.length > 65533 → exec (.sendCommand cmd args) s =
      .next { s with replies := s.replies ++ [.error (.lengthRange (2 + args.length))] })

/-- R133: on OK, Ack and a Data frame with the matching header, send_command writes the one request frame, makes two
reads, and returns the results. -/
def Obligations.SendCommandReturnsTheResults : Prop :=
  ∀ (cmd op : Byte) (args results raw : Bytes) (s : State) (ws : List WriteAnswer)
    (rs : List ReadAnswer),
    commandOpcode cmd = .ok op → args.length ≤ 65533 →
    Responds s (0xD7 :: (op + 1) :: results) raw ws rs →
    exec (.sendCommand cmd args) s =
      .next (afterExchange s (0xD6 :: op :: args) raw ws rs (.value (.bytes results)))

/-- R133, R160, R163, R164, R167, R205 (the spec's decision D13): a response with any other header is None, after one write
and two reads, for send_command and for every typed wrapper, and the channel stays OPEN. The same of the request payloads is
the model's choice (log entry 6). -/
def Obligations.HeaderMismatchIsNoResult : Prop :=
  ∀ (i : Instr) (op : Byte) (args p raw : Bytes) (s : State) (ws : List WriteAnswer)
    (rs : List ReadAnswer),
    Sends s.cfg i op args → Responds s p raw ws rs → (¬ ∃ results, p = 0xD7 :: (op + 1) :: results) →
    exec i s = .next (afterExchange s (0xD6 :: op :: args) raw ws rs .noResult)

/-- R133, R134, R160, R163, R164, R167, R205 (the spec's decision D13): for send_command and every typed wrapper a first
frame that is not Ack gives None after one read, and whatever the link delivers next stays unread (R34, R244); a second
frame that is not Data gives None after two. The channel stays OPEN. The same of the request payloads is the model's choice
(log entry 6). -/
def Obligations.UnexpectedFrameKindsAreNoResult : Prop :=
  ∀ (i : Instr) (op : Byte) (args raw : Bytes) (k : FrameKind) (s : State) (ws : List WriteAnswer)
    (rs : List ReadAnswer),
    s.chanState = .opened → Sends s.cfg i op args → s.writeAnswers = .ok :: ws → raw ≠ [] →
    decodeFrame raw = .ok ⟨raw, k⟩ →
    (k ≠ .ack → s.readAnswers = .data raw :: rs →
      exec i s = .next { s with
        writeAnswers := ws
        readAnswers := rs
        trace := s.trace ++
          [.write (dataFrame (0xD6 :: op :: args)) .ok (dataFrame (0xD6 :: op :: args)),
           .read s.cfg.respTimeoutMs (.data raw)]
        replies := s.replies ++ [.noResult] }) ∧
    (k ≠ .data → s.readAnswers = .data ackFrame :: .data raw :: rs →
      exec i s = .next (afterExchange s (0xD6 :: op :: args) raw ws rs .noResult))

/-- R133, R134, R136, R160 (the spec's decision D21): a failed write ends send_command and every typed wrapper with the
IOError, latches FAILED, and no read is made. The same of the request payloads is the model's choice (log entry 6). -/
def Obligations.FailedWriteLatchesFailed : Prop :=
  ∀ (i : Instr) (op : Byte) (args : Bytes) (s : State) (ws : List WriteAnswer) (w : WriteAnswer)
    (k : IOKind),
    s.chanState = .opened → Sends s.cfg i op args → s.writeAnswers = w :: ws →
    (w = .shortWrite ∧ k = .shortWrite ∨ w = .other ∧ k = .other) →
    ∃ delivered : Bytes, delivered <+: dataFrame (0xD6 :: op :: args) ∧
      exec i s = .next { s with
        chanState := .failed
        writeAnswers := ws
        trace := s.trace ++ [.write (dataFrame (0xD6 :: op :: args)) w delivered]
        replies := s.replies ++ [.error (.ioError k)] }

/-- R133, R134, R136, R160, R202 (the spec's decisions D4, D6, D21): a first read that times out, fails, completes with zero
bytes (which is a timeout), or brings a transfer that decode rejects ends send_command and every typed wrapper with that
error and latches FAILED. The same of the request payloads is the model's choice (log entry 6). -/
def Obligations.FirstReadFailureLatchesFailed : Prop :=
  ∀ (i : Instr) (op : Byte) (args : Bytes) (s : State) (ws : List WriteAnswer) (rs : List ReadAnswer)
    (a : ReadAnswer) (e : Error),
    s.chanState = .opened → Sends s.cfg i op args → s.writeAnswers = .ok :: ws →
    s.readAnswers = a :: rs →
    (a = .timeout ∧ e = .ioError .timeout ∨ a = .data [] ∧ e = .ioError .timeout ∨
      a = .invalidRead ∧ e = .ioError .invalidRead ∨ a = .other ∧ e = .ioError .other ∨
      ∃ raw, a = .data raw ∧ decodeFrame raw = .error e) →
    exec i s = .next { s with
      chanState := .failed
      writeAnswers := ws
      readAnswers := rs
      trace := s.trace ++
        [.write (dataFrame (0xD6 :: op :: args)) .ok (dataFrame (0xD6 :: op :: args)),
         .read s.cfg.respTimeoutMs (if a = .data [] then .timeout else a)]
      replies := s.replies ++ [.error e] }

/-- R133, R134, R136, R160, R202 (the spec's decisions D4, D6, D21): after an Ack, a second read that times out, fails,
completes with zero bytes (which is a timeout), or brings a transfer that decode rejects ends send_command and every typed
wrapper with that error and latches FAILED. The same of the request payloads is the model's choice (log entry 6). -/
def Obligations.SecondReadFailureLatchesFailed : Prop :=
  ∀ (i : Instr) (op : Byte) (args : Bytes) (s : State) (ws : List WriteAnswer) (rs : List ReadAnswer)
    (a : ReadAnswer) (e : Error),
    s.chanState = .opened → Sends s.cfg i op args → s.writeAnswers = .ok :: ws →
    s.readAnswers = .data ackFrame :: a :: rs →
    (a = .timeout ∧ e = .ioError .timeout ∨ a = .data [] ∧ e = .ioError .timeout ∨
      a = .invalidRead ∧ e = .ioError .invalidRead ∨ a = .other ∧ e = .ioError .other ∨
      ∃ raw, a = .data raw ∧ decodeFrame raw = .error e) →
    exec i s = .next { s with
      chanState := .failed
      writeAnswers := ws
      readAnswers := rs
      trace := s.trace ++
        [.write (dataFrame (0xD6 :: op :: args)) .ok (dataFrame (0xD6 :: op :: args)),
         .read s.cfg.respTimeoutMs (.data ackFrame),
         .read s.cfg.respTimeoutMs (if a = .data [] then .timeout else a)]
      replies := s.replies ++ [.error e] }

/-- R135 (the spec's own inference): every round-trip operation makes at most one write and two reads, no read before its write
has answered OK, and retries nothing. The request payloads among them are the model's choice (log entry 6). -/
def Obligations.RoundTripsMakeOneWriteAndUpToTwoReads : Prop :=
  ∀ (i : Instr) (s : State), isRoundTrip i = true → ∃ t l,
    exec i s = .next t ∧ t.trace = s.trace ++ l ∧
    (l = [] ∨ (∃ b w d, l = [.write b w d]) ∨
      (∃ b m a, l = [.write b .ok b, .read m a]) ∨
      (∃ b m a m' a', l = [.write b .ok b, .read m a, .read m' a']))

/-- R136, R201, R216: a round-trip operation issued in OPEN ends in FAILED exactly when it ends with IOError,
ChecksumMismatch or Truncated, and stays OPEN with any other result; it changes nothing but the link, the reply and
that latch (the spec's decisions D6, D21, D36). The request payloads among them are the model's choice (log entry 6). -/
def Obligations.OnlyFatalErrorsLatchFailed : Prop :=
  ∀ (i : Instr) (s : State), isRoundTrip i = true → s.chanState = .opened → ∃ t r,
    exec i s = .next t ∧ t.replies = s.replies ++ [r] ∧
    ((∃ e, r = .error e ∧ e.isFatal = true) → t.chanState = .failed) ∧
    ((¬ ∃ e, r = .error e ∧ e.isFatal = true) → t.chanState = .opened) ∧
    t.cfg = s.cfg ∧ t.seq = s.seq ∧ t.hostQueue = s.hostQueue ∧
    t.writeAnswers <:+ s.writeAnswers ∧ t.readAnswers <:+ s.readAnswers

/-! ### The typed wrappers and their payloads -/

/-- R160, R161, R68 (with the spec's decisions D11, D12): set_command_type writes `D6 2A n` and reads one status byte. The
payload REQ_SetCommandType does the same (the model's choice, log entry 6). -/
def Obligations.SetCommandTypeRoundTrip : Prop :=
  ∀ (n : Byte) (results raw : Bytes) (s : State) (ws : List WriteAnswer) (rs : List ReadAnswer),
    Responds s (0xD7 :: 0x2B :: results) raw ws rs →
    exec (.setCommandType n) s =
      .next (afterExchange s [0xD6, 0x2A, n] raw ws rs (statusReply results)) ∧
    exec (.reqSetCommandType n) s =
      .next (afterExchange s [0xD6, 0x2A, n] raw ws rs (statusReply results))

/-- R160, R162, R68 (with the spec's decisions D11, D12): switch_rf writes `D6 06 01` when on and `D6 06 00` when off, and
reads one status byte. The payload REQ_SwitchRF does the same (the model's choice, log entry 6). -/
def Obligations.SwitchRFRoundTrip : Prop :=
  ∀ (on : Bool) (results raw : Bytes) (s : State) (ws : List WriteAnswer) (rs : List ReadAnswer),
    Responds s (0xD7 :: 0x07 :: results) raw ws rs →
    exec (.switchRF on) s =
      .next (afterExchange s [0xD6, 0x06, if on then 1 else 0] raw ws rs (statusReply results)) ∧
    exec (.reqSwitchRF on) s =
      .next (afterExchange s [0xD6, 0x06, if on then 1 else 0] raw ws rs (statusReply results))

/-- R163, R68 (with the spec's decisions D11, D12): with None or an option of `FW_OPTION_SET`, get_firmware_version writes
`D6 20` and the option, and reads a little-endian version. The payload REQ_GetFirmwareVersion does the same with any option
(the model's choice, log entry 6). -/
def Obligations.GetFirmwareVersionRoundTrip : Prop :=
  ∀ (option : Option Byte) (results raw : Bytes) (s : State) (ws : List WriteAnswer)
    (rs : List ReadAnswer),
    Responds s (0xD7 :: 0x21 :: results) raw ws rs →
    ((∀ o, option = some o → o ∈ s.cfg.fwOptionSet) → exec (.getFirmwareVersion option) s =
      .next (afterExchange s ([0xD6, 0x20] ++ option.toList) raw ws rs (versionReply results))) ∧
    exec (.reqGetFirmwareVersion option) s =
      .next (afterExchange s ([0xD6, 0x20] ++ option.toList) raw ws rs (versionReply results))

/-- R164 (with the spec's decision D12): get_pd_data_version writes `D6 22` and reads a little-endian version. The payload
REQ_GetPDDataVersion does the same (the model's choice, log entry 6). -/
def Obligations.GetPDDataVersionRoundTrip : Prop :=
  ∀ (results raw : Bytes) (s : State) (ws : List WriteAnswer) (rs : List ReadAnswer),
    Responds s (0xD7 :: 0x23 :: results) raw ws rs →
    exec .getPDDataVersion s =
      .next (afterExchange s [0xD6, 0x22] raw ws rs (versionReply results)) ∧
    exec .reqGetPDDataVersion s =
      .next (afterExchange s [0xD6, 0x22] raw ws rs (versionReply results))

/-- R165, R68 (with the spec's decision D24): in_set_rf writes the send profile's first two bytes and the receive profile's
last two (the send profile's own when recv is None), and reads one status byte. The payload REQ_InSetRF does the same with
the four bytes it carries, whatever they are (the model's choice, log entry 6). -/
def Obligations.InSetRFRoundTrip : Prop :=
  ∀ (results raw : Bytes) (s : State) (ws : List WriteAnswer) (rs : List ReadAnswer),
    Responds s (0xD7 :: 0x01 :: results) raw ws rs →
    (∀ (send : Byte) (recv : Option Byte) (t v : BitrateTuple),
      s.cfg.bitrateTable[send.toNat]? = some t →
      s.cfg.bitrateTable[(recv.getD send).toNat]? = some v →
      exec (.inSetRF send recv) s =
        .next (afterExchange s [0xD6, 0x00, t.b0, t.b1, v.b2, v.b3] raw ws rs (statusReply results))) ∧
    ∀ s0 s1 r2 r3 : Byte, exec (.reqInSetRF s0 s1 r2 r3) s =
      .next (afterExchange s [0xD6, 0x00, s0, s1, r2, r3] raw ws rs (statusReply results))

/-- R163, R165, R167, R208, R209 (the spec's decisions D2, D8, D35): an option outside `FW_OPTION_SET`, a profile index
over 7 (the send profile checked first), and data longer than 65531 bytes end the wrapper with no link activity. Every
round trip either has a request to send or ends so, with ParameterError or LengthRange; of the request payloads this is the
model's choice (log entry 6). -/
def Obligations.WrappersRejectArgumentsBeforeTheLink : Prop :=
  ∀ s : State, s.chanState = .opened →
    (∀ o : Byte, o ∉ s.cfg.fwOptionSet → exec (.getFirmwareVersion (some o)) s =
      .next { s with replies := s.replies ++ [.error (.parameterError o)] }) ∧
    (∀ (send : Byte) (recv : Option Byte), send.toNat > 7 → exec (.inSetRF send recv) s =
      .next { s with replies := s.replies ++ [.error (.parameterError send)] }) ∧
    (∀ send r : Byte, send.toNat ≤ 7 → r.toNat > 7 → exec (.inSetRF send (some r)) s =
      .next { s with replies := s.replies ++ [.error (.parameterError r)] }) ∧
    (∀ (data : Bytes) (units : S32), data.length > 65531 → exec (.inCommRF data units) s =
      .next { s with replies := s.replies ++ [.error (.lengthRange (4 + data.length))] }) ∧
    ∀ i : Instr, isRoundTrip i = true → (∃ op args, Sends s.cfg i op args) ∨
      ∃ e, ((∃ v, e = .parameterError v) ∨ ∃ n, e = .lengthRange n) ∧
        exec i s = .next { s with replies := s.replies ++ [.error e] }

/-- R166, R73 (with the spec's decision D25): in_set_protocol sends exactly the present fields as (key, value) pairs, the
keys ascending, and reads one status byte. The payload REQ_InSetProtocol does the same with the pairs it carries, whatever
they are, as far as a frame can hold them (the model's choice, log entry 6). -/
def Obligations.InSetProtocolSendsPresentFieldsInKeyOrder : Prop :=
  ∀ (results raw : Bytes) (s : State) (ws : List WriteAnswer) (rs : List ReadAnswer),
    Responds s (0xD7 :: 0x03 :: results) raw ws rs →
    (∀ params : ProtocolParameters, ∃ pairs : List (Byte × Byte),
      pairs.Perm (((s.cfg.protocolKeyId.toList.zip (protocolValues params)).filterMap
        fun kv => kv.2.map fun v => (kv.1, v))) ∧
      pairs.Pairwise (fun p q => p.1.toNat ≤ q.1.toNat) ∧
      exec (.inSetProtocol params) s = .next (afterExchange s
        ([0xD6, 0x02] ++ pairs.flatMap fun p => [p.1, p.2]) raw ws rs (statusReply results))) ∧
    ∀ pairs : List (Byte × Byte), 2 * pairs.length ≤ 65533 →
      exec (.reqInSetProtocol pairs) s = .next (afterExchange s
        ([0xD6, 0x02] ++ pairs.flatMap fun p => [p.1, p.2]) raw ws rs (statusReply results))

/-- R167, R70, R71 (with the spec's decisions D12, D16): in_comm_rf writes the converted timeout, low byte first, and the
data; it reads the status word, and on zero the bytes from offset 5. The payload REQ_InCommRF does the same with the timeout
it carries, whatever it is (the model's choice, log entry 6). -/
def Obligations.InCommRFRoundTrip : Prop :=
  ∀ (data results raw : Bytes) (s : State) (ws : List WriteAnswer) (rs : List ReadAnswer),
    data.length ≤ 65531 → Responds s (0xD7 :: 0x05 :: results) raw ws rs →
    (∀ units : S32, ∃ (v : U16) (lo hi : Byte),
      exec (.convertTimeout units) s = .next { s with replies := s.replies ++ [.value (.u16 v)] } ∧
      v.toNat = lo.toNat + 256 * hi.toNat ∧
      exec (.inCommRF data units) s = .next (afterExchange s
        (0xD6 :: 0x04 :: lo :: hi :: data) raw ws rs (commReply results))) ∧
    ∀ (v : U16) (lo hi : Byte), v.toNat = lo.toNat + 256 * hi.toNat →
      exec (.reqInCommRF v data) s = .next (afterExchange s
        (0xD6 :: 0x04 :: lo :: hi :: data) raw ws rs (commReply results))

/-- R69, R132: a response payload of a status command is read for its first byte, one of a version command for its first
two, one of InCommRF for its status word and its data; nothing but the reply changes. That a payload can be presented by
itself, and is read without a gate, is the model's choice (log entry 6). -/
def Obligations.ResponsePayloadsAreReadByTheirLayout : Prop :=
  ∀ (results : Bytes) (s : State),
    exec (.rspInSetRF results) s = .next { s with replies := s.replies ++ [statusReply results] } ∧
    exec (.rspInSetProtocol results) s = .next { s with replies := s.replies ++ [statusReply results] } ∧
    exec (.rspSwitchRF results) s = .next { s with replies := s.replies ++ [statusReply results] } ∧
    exec (.rspSetCommandType results) s = .next { s with replies := s.replies ++ [statusReply results] } ∧
    exec (.rspGetFirmwareVersion results) s =
      .next { s with replies := s.replies ++ [versionReply results] } ∧
    exec (.rspGetPDDataVersion results) s =
      .next { s with replies := s.replies ++ [versionReply results] } ∧
    exec (.rspInCommRF results) s = .next { s with replies := s.replies ++ [commReply results] }

/-! ### The Channel unit -/

/-- R180, R181: from UNOPENED, on a link that accepts the Ack, delivers any stale transfers, goes quiet, and answers the
two commands with success, open discards the stale transfers undecoded, issues SetCommandType(1) and SwitchRF(false),
and ends OPEN. -/
def Obligations.OpenNormalizesTheLinkAndOpens : Prop :=
  ∀ (s : State) (stale : List Bytes) (raw1 raw2 res1 res2 : Bytes) (ws : List WriteAnswer)
    (rs : List ReadAnswer),
    s.chanState = .unopened → s.writeAnswers = .ok :: .ok :: .ok :: ws → (∀ b ∈ stale, b ≠ []) →
    s.readAnswers = stale.map .data ++
      (.timeout :: .data ackFrame :: .data raw1 :: .data ackFrame :: .data raw2 :: rs) →
    decodeFrame raw1 = .ok ⟨raw1, .data⟩ → payloadOf ⟨raw1, .data⟩ = .ok (0xD7 :: 0x2B :: 0 :: res1) →
    decodeFrame raw2 = .ok ⟨raw2, .data⟩ → payloadOf ⟨raw2, .data⟩ = .ok (0xD7 :: 0x07 :: 0 :: res2) →
    exec .openChannel s = .next { s with
      chanState := .opened
      seq := .start
      writeAnswers := ws
      readAnswers := rs
      trace := s.trace ++ [.write ackFrame .ok ackFrame] ++
        stale.map (fun b => .read s.cfg.drainTimeoutMs (.data b)) ++
        [.read s.cfg.drainTimeoutMs .timeout] ++ exchange s.cfg [0xD6, 0x2A, 0x01] raw1 ++
        exchange s.cfg [0xD6, 0x06, 0x00] raw2
      replies := s.replies ++ [.value .nothing] }

/-- R180, R182: open ends OPEN with success, or FAILED with an error, or is still draining with no reply given and the
channel UNOPENED. That the step ends inside the drain is the model's choice (log entry 2). -/
def Obligations.OpenEndsOpenFailedOrStillDraining : Prop :=
  ∀ s : State, s.chanState = .unopened → ∃ t, exec .openChannel s = .next t ∧
    ((t.chanState = .opened ∧ t.seq = .start ∧ t.replies = s.replies ++ [.value .nothing]) ∨
     (t.chanState = .failed ∧ t.seq = .start ∧ ∃ e, t.replies = s.replies ++ [.error e]) ∨
     (t.chanState = .unopened ∧ t.seq = .draining ∧ t.replies = s.replies))

/-- R180, R181, R182, R205 (the spec's decisions D20, D21, D22): open fails at its first failing step, with FAILED and that
step's error, and the later steps are not taken: the Ack write, a drain read, SetCommandType with a non-zero status or
None, SwitchRF with a non-zero status or None. None is ProtocolMismatch. -/
def Obligations.OpenFailsAtItsFirstFailingStep : Prop :=
  (∀ (s : State) (w : WriteAnswer) (k : IOKind) (ws : List WriteAnswer),
    s.chanState = .unopened → s.writeAnswers = w :: ws →
    (w = .shortWrite ∧ k = .shortWrite ∨ w = .other ∧ k = .other) →
    ∃ delivered : Bytes, delivered <+: ackFrame ∧
      exec .openChannel s = .next (failedOpen { s with writeAnswers := ws }
        [.write ackFrame w delivered] (.error (.ioError k)))) ∧
  (∀ (s : State) (stale : List Bytes) (a : ReadAnswer) (k : IOKind) (ws : List WriteAnswer)
    (rs : List ReadAnswer),
    s.chanState = .unopened → s.writeAnswers = .ok :: ws → (∀ b ∈ stale, b ≠ []) →
    s.readAnswers = stale.map .data ++ a :: rs →
    (a = .invalidRead ∧ k = .invalidRead ∨ a = .other ∧ k = .other) →
    exec .openChannel s = .next (failedOpen { s with writeAnswers := ws, readAnswers := rs }
      ([.write ackFrame .ok ackFrame] ++ stale.map (fun b => .read s.cfg.drainTimeoutMs (.data b)) ++
        [.read s.cfg.drainTimeoutMs a]) (.error (.ioError k)))) ∧
  (∀ (s : State) (stale : List Bytes) (raw res : Bytes) (c : Byte) (ws : List WriteAnswer)
    (rs : List ReadAnswer),
    Normalizes s stale (.ok :: ws) (.data ackFrame :: .data raw :: rs) →
    decodeFrame raw = .ok ⟨raw, .data⟩ → payloadOf ⟨raw, .data⟩ = .ok (0xD7 :: 0x2B :: c :: res) →
    c ≠ 0 →
    exec .openChannel s = .next (failedOpen (drained s stale ws rs)
      (exchange s.cfg [0xD6, 0x2A, 0x01] raw) (statusReply (c :: res)))) ∧
  (∀ (s : State) (stale : List Bytes) (reads : List ReadAnswer) (ws : List WriteAnswer)
    (rs : List ReadAnswer),
    Normalizes s stale (.ok :: ws) (reads ++ rs) → Mismatched 0x2A reads →
    exec .openChannel s = .next (failedOpen (drained s stale ws rs)
      (.write (dataFrame [0xD6, 0x2A, 0x01]) .ok (dataFrame [0xD6, 0x2A, 0x01]) ::
        reads.map (.read s.cfg.respTimeoutMs)) (.error .protocolMismatch))) ∧
  (∀ (s : State) (stale : List Bytes) (raw1 raw res1 res : Bytes) (c : Byte) (ws : List WriteAnswer)
    (rs : List ReadAnswer),
    Normalizes s stale (.ok :: .ok :: ws)
      (.data ackFrame :: .data raw1 :: .data ackFrame :: .data raw :: rs) →
    decodeFrame raw1 = .ok ⟨raw1, .data⟩ → payloadOf ⟨raw1, .data⟩ = .ok (0xD7 :: 0x2B :: 0 :: res1) →
    decodeFrame raw = .ok ⟨raw, .data⟩ → payloadOf ⟨raw, .data⟩ = .ok (0xD7 :: 0x07 :: c :: res) →
    c ≠ 0 →
    exec .openChannel s = .next (failedOpen (drained s stale ws rs)
      (exchange s.cfg [0xD6, 0x2A, 0x01] raw1 ++ exchange s.cfg [0xD6, 0x06, 0x00] raw)
      (statusReply (c :: res)))) ∧
  ∀ (s : State) (stale : List Bytes) (raw1 res1 : Bytes) (reads : List ReadAnswer)
    (ws : List WriteAnswer) (rs : List ReadAnswer),
    Normalizes s stale (.ok :: .ok :: ws) (.data ackFrame :: .data raw1 :: (reads ++ rs)) →
    decodeFrame raw1 = .ok ⟨raw1, .data⟩ → payloadOf ⟨raw1, .data⟩ = .ok (0xD7 :: 0x2B :: 0 :: res1) →
    Mismatched 0x06 reads →
    exec .openChannel s = .next (failedOpen (drained s stale ws rs)
      (exchange s.cfg [0xD6, 0x2A, 0x01] raw1 ++
        .write (dataFrame [0xD6, 0x06, 0x00]) .ok (dataFrame [0xD6, 0x06, 0x00]) ::
          reads.map (.read s.cfg.respTimeoutMs)) (.error .protocolMismatch))

/-- R181, R246 (the spec's own inference): while the link keeps delivering, the drain goes on: for every number of transfers, as
many steps leave the FCD still draining, with the transfers read and nothing else changed. One drain read a step is the
model's choice (log entry 2). -/
def Obligations.DrainGoesOnWhileTheLinkDelivers : Prop :=
  ∀ (s : State) (stale : List Bytes) (rs : List ReadAnswer),
    s.seq = .draining → (∀ b ∈ stale, b ≠ []) → s.readAnswers = stale.map .data ++ rs →
    Host.Core.run Sys2Proof.core stale.length s = .next { s with
      readAnswers := rs
      trace := s.trace ++ stale.map (fun b => .read s.cfg.drainTimeoutMs (.data b)) }

/-- R181, R180 (the spec's decisions D20, D21): a drain read that fails ends open with the IOError and FAILED. One drain read
a step is the model's choice (log entry 2). -/
def Obligations.DrainReadFailureFailsOpen : Prop :=
  ∀ (s : State) (a : ReadAnswer) (k : IOKind) (rs : List ReadAnswer),
    s.seq = .draining → s.readAnswers = a :: rs →
    (a = .invalidRead ∧ k = .invalidRead ∨ a = .other ∧ k = .other) →
    step s = .next { s with
      chanState := .failed
      seq := .start
      readAnswers := rs
      trace := s.trace ++ [.read s.cfg.drainTimeoutMs a]
      replies := s.replies ++ [.error (.ioError k)] }

/-- R183 (the spec's decision D23): close always succeeds and ends CLOSED, whatever the link answers. Unless the channel was
CLOSED before, it writes the SwitchRF(false) request, makes at most two reads, writes the Ack and issues LinkClose. -/
def Obligations.CloseAlwaysReleasesTheLink : Prop :=
  ∀ s : State, ∃ t, exec .closeChannel s = .next t ∧ t.chanState = .closed ∧
    t.replies = s.replies ++ [.value .nothing] ∧ t.cfg = s.cfg ∧ t.seq = s.seq ∧
    t.hostQueue = s.hostQueue ∧
    (s.chanState ≠ .closed → ∃ w1 d1 reads w2 d2,
      t.trace = s.trace ++ [.write (dataFrame [0xD6, 0x06, 0x00]) w1 d1] ++ reads ++
        [.write ackFrame w2 d2, .close] ∧
      reads.length ≤ 2 ∧ ∀ e ∈ reads, ∃ m a, e = .read m a)

/-- R184 (the spec's own inference): a close of a CLOSED channel has no link activity and changes nothing. -/
def Obligations.CloseIsIdempotent : Prop :=
  ∀ s : State, s.chanState = .closed →
    exec .closeChannel s = .next { s with replies := s.replies ++ [.value .nothing] }

/-! ### The machine -/

/-- A step with no open draining performs the next item: where it decodes to `i`, the step is `exec i` of the state with
that item taken off the queue. With nothing issued the step changes nothing. The queue and the idle step are the model's
choice (log entries 11 and 12). -/
def Obligations.StepRunsTheDecodedInstruction : Prop :=
  (∀ (s : State) (it : Item) (rest : List Item) (i : Instr),
    s.seq = .start → s.hostQueue = it :: rest → decodeItem it = .ok i →
    step s = exec i { s with hostQueue := rest }) ∧
  ∀ s : State, s.seq = .start → s.hostQueue = [] → step s = .next s

/-- R80, R213 (the spec's decision D2): a selector that R80 does not list ends with IllegalOp, with no state change and no
link activity. The queue it is taken from is the model's (log entry 11). -/
def Obligations.UndefinedSelectorsEndWithIllegalOp : Prop :=
  ∀ (sel : Byte) (ops : Bytes) (s : State) (rest : List Item),
    sel ∉ ([0x01, 0x02, 0x03, 0x04, 0x05, 0x10, 0x11, 0x12, 0x20, 0x21, 0x22, 0x23, 0x24, 0x25, 0x26,
      0x27, 0x30, 0x31, 0x32, 0x33, 0x34, 0x35, 0x36, 0x40, 0x41] : Bytes) →
    s.seq = .start → s.hostQueue = ⟨.host, sel :: ops⟩ :: rest →
    step s = .next { s with hostQueue := rest, replies := s.replies ++ [.error (.illegalOp sel)] }

/-- Decode and encode agree: the item of every well-formed instruction decodes to that instruction, with every operand at
every value. The operand bytes are the model's (log entry 4). -/
def Obligations.DecodeOfEncodeIsTheInstruction : Prop :=
  ∀ i : Instr, WellFormed i = true → decodeItem (Sys2Proof.encode i) = .ok i

/-- The decoder accepts nothing but well-formed instructions, so the machine never performs an ill-formed one. Host operands
are as long as their 4-byte length field says (log entry 4), so the bound of R8 holds of each. -/
def Obligations.DecodedInstructionsAreWellFormed : Prop :=
  ∀ (it : Item) (i : Instr), decodeItem it = .ok i → WellFormed i = true

/-- A few words of the table, written out: selectors of R80, headers of R64 to R66, frames of R60 to R62. The operand bytes
after a selector are the model's (log entry 4). -/
def Obligations.WordsOfTheTableDecode : Prop :=
  decodeItem ⟨.host, [0x03, 0x2C, 0x01]⟩ = .ok (.toLE16 300) ∧
  decodeItem ⟨.host, [0x01, 0x02, 0x00, 0x00, 0x00, 0x01, 0x18]⟩ = .ok (.checksum [0x01, 0x18]) ∧
  decodeItem ⟨.host, [0x40]⟩ = .ok .openChannel ∧
  decodeItem ⟨.payload, [0xD6, 0x2A, 0x01]⟩ = .ok (.reqSetCommandType 0x01) ∧
  decodeItem ⟨.payload, [0xD7, 0x2B, 0x00]⟩ = .ok (.rspSetCommandType [0x00]) ∧
  decodeItem ⟨.transfer, [0x00, 0x00, 0xFF, 0x00, 0xFF, 0x00]⟩ = .ok .frameAck ∧
  decodeItem ⟨.transfer, [0x00, 0x00, 0xFF, 0xFF, 0xFF]⟩ = .ok .frameErr

/-- R37, R240, R241: after reset the channel is UNOPENED, no operation runs, no link interaction has happened, and the
parameters for which R7 gives a default have it (UNOPENED is the spec's decision D21, the defaults D15 and D20, log entry
9). -/
def Obligations.ResetLeavesTheChannelUnopened : Prop :=
  State.reset.chanState = .unopened ∧ State.reset.seq = .start ∧ State.reset.trace = [] ∧
  State.reset.replies = [] ∧ State.reset.cfg.drainTimeoutMs = 10 ∧
  State.reset.cfg.fwOptionSet = [0x3C, 0x3D, 0x80]

/-- The invariant holds at reset. The flag bits and the keys are free there, and legal and distinct by the model's choice
(log entry 8). -/
def Obligations.InvariantHoldsAtReset : Prop := Inv State.reset

/-- R46, R47, R73, R76, R146, R184: every step keeps the invariant: the keys stay distinct and the flag bits legal, only
an UNOPENED channel drains, every frame ever written is an Ack or the Data frame of a request with a table opcode, and
LinkClose happens exactly once on the way to CLOSED. -/
def Obligations.EveryStepKeepsTheInvariant : Prop :=
  ∀ s t : State, Inv s → step s = .next t → Inv t

/-- R38: no step writes the configuration parameters. -/
def Obligations.ConfigurationIsImmutable : Prop :=
  ∀ s t : State, step s = .next t → t.cfg = s.cfg

/-- R24 (the spec's decisions D21, D37): where only an UNOPENED channel drains (a part of the invariant), a step makes no
transition of `chan_state` but those of the table. -/
def Obligations.OnlyTableTransitionsOfChanState : Prop :=
  ∀ s t : State, (s.seq = .draining → s.chanState = .unopened) → step s = .next t →
    chanStep s.chanState t.chanState = true

/-- R20, R32, R80: a pure operation works in every channel state, touches nothing but the reply, and its reply depends on
the operation and the configuration alone. That a response payload or a wire frame is such an operation, performed by itself
and ungated, is the model's choice (log entries 5 and 6). -/
def Obligations.PureOperationsOnlyReply : Prop :=
  ∀ (i : Instr) (cfg : ConfigRegs), isPure i = true → ∃ r : Reply, ∀ s : State, s.cfg = cfg →
    exec i s = .next { s with replies := s.replies ++ [r] }

/-- R12, R216: every operation ends with exactly one result, but for an open that is still draining, which has given
none (log entry 2). That the wire frames and the payloads are operations is the model's choice (log entries 5 and 6). -/
def Obligations.EveryOperationGivesOneResult : Prop :=
  ∀ (i : Instr) (s : State), ∃ t, exec i s = .next t ∧
    ((∃ r, t.replies = s.replies ++ [r]) ∨
     (i = .openChannel ∧ t.seq = .draining ∧ t.replies = s.replies))

/-- R36, R55: the results already returned and the operations still to come change neither what an operation does nor what
it returns. That the wire frames and the payloads are operations is the model's choice (log entries 5 and 6). -/
def Obligations.EarlierResultsDoNotReachLaterOperations : Prop :=
  ∀ (i : Instr) (s : State), ∃ t new, exec i s = .next t ∧ t.replies = s.replies ++ new ∧
    ∀ (queue : List Item) (earlier : List Reply),
      exec i { s with hostQueue := queue, replies := earlier } =
        .next { t with hostQueue := queue, replies := earlier ++ new }

/-- R24, R184 (the spec's own inference): once CLOSED, the channel stays CLOSED and no further link interaction happens, however
many steps run. -/
def Obligations.NothingReachesTheLinkAfterClose : Prop :=
  ∀ (n : Nat) (s t : State), s.chanState = .closed → s.seq = .start →
    Host.Core.run Sys2Proof.core n s = .next t → t.chanState = .closed ∧ t.trace = s.trace

/-- R180, R181, R182, R205 (the spec's decision D22): once its drain has ended, open does what its two commands do, whatever the
link answers them: SetCommandType(1), and on its success SwitchRF(false), as the wrappers perform them on an OPEN channel.
It ends OPEN exactly when both succeed; otherwise FAILED, with the failing command's error, or ProtocolMismatch for None.
That an open can go on in a later step than it began in is the model's choice (log entry 2). -/
def Obligations.OpenEndsAsItsTwoCommandsDo : Prop :=
  (∀ (s : State) (stale : List Bytes) (ws : List WriteAnswer) (rs : List ReadAnswer),
    Normalizes s stale ws rs → EndsAsItsCommands (drained s stale ws rs) (exec .openChannel s)) ∧
  ∀ s d : State, s.seq = .draining → linkRead s.cfg.drainTimeoutMs s = (.timeout, d) →
    EndsAsItsCommands d (step s)
end

