-- ==== Sys2Proof/Laws/Codec.lean ====
section
/-!
SUPPORT. The Codec's arithmetic (spec/40_codec.md): sums over concatenation, what the checksum byte is, little-endian
numbers, and the length of what they produce.
-/

namespace Sys2Proof.Laws

open Sys2Proof Sys2Proof.Machine

@[simp] theorem byteSum_nil : byteSum [] = 0 := rfl

@[simp] theorem byteSum_cons (b : Byte) (bs : Bytes) : byteSum (b :: bs) = b.toNat + byteSum bs := by
  simp [byteSum]

@[simp] theorem byteSum_append (a b : Bytes) : byteSum (a ++ b) = byteSum a + byteSum b := by
  simp [byteSum]

/-- The checksum byte as a number. -/
theorem checksum_toNat (x : Bytes) : (checksum x).toNat = (256 - byteSum x % 256) % 256 := by
  simp [checksum]

/-- The byte that makes a sum 0 mod 256 is unique. -/
theorem byte_eq_of_sum (n : Nat) (c d : Byte) (hc : (n + c.toNat) % 256 = 0)
    (hd : (n + d.toNat) % 256 = 0) : c = d := by
  have := c.isLt
  have := d.isLt
  exact BitVec.eq_of_toNat_eq (by omega)

@[simp] theorem toLE16_length (v : U16) : (toLE16 v).length = 2 := rfl

@[simp] theorem lengthBytes_length (n : Nat) : (lengthBytes n).length = 2 := rfl

/-- The two bytes of a 16-bit value, as numbers. -/
theorem toLE16_parts (v : U16) :
    toLE16 v = [v.extractLsb' 0 8, v.extractLsb' 8 8] ∧
      v.toNat = (v.extractLsb' 0 8).toNat + 256 * (v.extractLsb' 8 8).toNat := by
  refine ⟨rfl, ?_⟩
  simp [BitVec.extractLsb'_toNat, Nat.shiftRight_eq_div_pow]
  have := v.isLt
  omega

/-- The value of a byte sequence put together with the higher part first. -/
theorem append_toNat {n : Nat} (hi : BitVec n) (lo : Byte) :
    (hi ++ lo).toNat = lo.toNat + 256 * hi.toNat := by
  rw [BitVec.toNat_append, ← Nat.shiftLeft_add_eq_or_of_lt lo.isLt, Nat.shiftLeft_eq]
  omega

/-- The two bytes of fromLE16, higher index first. -/
@[simp] theorem fromLE16_pair (b0 b1 : Byte) : fromLE16 [b0, b1] = .ok (b1 ++ b0) := by
  refine congrArg Except.ok (BitVec.eq_of_getLsbD_eq fun i hi => ?_)
  simp only [BitVec.getLsbD_or, BitVec.getLsbD_shiftLeft, BitVec.getLsbD_append,
    BitVec.truncate_eq_setWidth, BitVec.getLsbD_setWidth]
  by_cases h : i < 8
  · simp [h, hi]
  · have := b0.getLsbD_of_ge i (by omega)
    simp [h, hi, this]
    omega

/-- The four bytes of fromLE32, highest index first. -/
@[simp] theorem fromLE32_four (b0 b1 b2 b3 : Byte) :
    fromLE32 [b0, b1, b2, b3] = .ok (b3 ++ b2 ++ b1 ++ b0) := by
  refine congrArg Except.ok (BitVec.eq_of_getLsbD_eq fun i hi => ?_)
  simp only [BitVec.getLsbD_or, BitVec.getLsbD_shiftLeft, BitVec.getLsbD_append,
    BitVec.truncate_eq_setWidth, BitVec.getLsbD_setWidth]
  interval_cases i <;> simp

@[simp] theorem leBytes_length (n v : Nat) : (leBytes n v).length = n := by
  induction n generalizing v with
  | zero => rfl
  | succ n ih => simp [leBytes, ih]

/-- Reading back a little-endian number. -/
theorem leNat_leBytes (n v : Nat) : leNat (leBytes n v) = v % 256 ^ n := by
  induction n generalizing v with
  | zero => simp [leBytes, leNat, Nat.mod_one]
  | succ n ih =>
    have h : v % 256 ^ (n + 1) = v % 256 + 256 * (v / 256 % 256 ^ n) := by
      rw [Nat.pow_succ, Nat.mul_comm (256 ^ n) 256, Nat.mod_mul]
    rw [leBytes, leNat, ih, BitVec.toNat_ofNat, h]

@[simp] theorem dataFrame_length (p : Bytes) : (dataFrame p).length = 10 + p.length := by
  simp [dataFrame, preamble, trailer]
  omega

theorem takeN_append (a b : Bytes) : takeN a.length (a ++ b) = some (a, b) := by
  simp [takeN]

theorem takeLE_leBytes (n v : Nat) (rest : Bytes) (h : v < 256 ^ n) :
    takeLE n (leBytes n v ++ rest) = some (v, rest) := by
  have := takeN_append (leBytes n v) rest
  simp only [leBytes_length] at this
  simp [takeLE, this, leNat_leBytes, Nat.mod_eq_of_lt h]

/-- A `bytes` operand reads back. -/
theorem takeBytes_putBytes (b rest : Bytes) (h : b.length < 2 ^ 32) :
    takeBytes (putBytes b ++ rest) = some (b, rest) := by
  simp only [takeBytes, putBytes, List.append_assoc]
  rw [takeLE_leBytes 4 b.length _ (by norm_num at h ⊢; exact h)]
  simp [takeN_append]

theorem takeOption_putOption (o : Option Byte) (rest : Bytes) :
    takeOption (putOption o ++ rest) = some (o, rest) := by
  cases o <;> simp [putOption, takeOption]

theorem takeBool_putBool (b : Bool) (rest : Bytes) : takeBool (putBool b ++ rest) = some (b, rest) := by
  cases b <;> simp [putBool, takeBool]

theorem takeOptions_flatMap (l : List (Option Byte)) (rest : Bytes) :
    takeOptions l.length (l.flatMap putOption ++ rest) = some (l, rest) := by
  induction l with
  | nil => simp [takeOptions]
  | cons o l ih => simp [takeOptions, takeOption_putOption, ih]

theorem protocolOfValues_protocolValues (p : ProtocolParameters) :
    protocolOfValues (protocolValues p) = some p := rfl

theorem readPairs_pairBytes (ps : List (Byte × Byte)) : readPairs (pairBytes ps) = some ps := by
  induction ps with
  | nil => rfl
  | cons p ps ih =>
    rw [pairBytes] at ih
    simp [pairBytes, readPairs, ih]

end Sys2Proof.Laws
end

