-- ==== Sys2Proof/Laws/State.lean ====
section
/-!
SUPPORT. The small lemmas of the state's updates: one per field per update, true by rfl, so that no later proof unfolds a
record update; and the field lemmas of the operations that are plain updates.
-/

namespace Sys2Proof.Laws

open Sys2Proof Sys2Proof.Machine

section reply
variable (r : Reply) (s : State)
@[simp] theorem reply_chanState : (reply r s).chanState = s.chanState := rfl
@[simp] theorem reply_cfg : (reply r s).cfg = s.cfg := rfl
@[simp] theorem reply_seq : (reply r s).seq = s.seq := rfl
@[simp] theorem reply_hostQueue : (reply r s).hostQueue = s.hostQueue := rfl
@[simp] theorem reply_replies : (reply r s).replies = s.replies ++ [r] := rfl
@[simp] theorem reply_writeAnswers : (reply r s).writeAnswers = s.writeAnswers := rfl
@[simp] theorem reply_readAnswers : (reply r s).readAnswers = s.readAnswers := rfl
@[simp] theorem reply_trace : (reply r s).trace = s.trace := rfl
end reply

section linkWrite
variable (b : Bytes) (s : State)
@[simp] theorem linkWrite_answer : (linkWrite b s).1 = nextWriteAnswer b s := rfl
@[simp] theorem linkWrite_chanState : (linkWrite b s).2.chanState = s.chanState := rfl
@[simp] theorem linkWrite_cfg : (linkWrite b s).2.cfg = s.cfg := rfl
@[simp] theorem linkWrite_seq : (linkWrite b s).2.seq = s.seq := rfl
@[simp] theorem linkWrite_hostQueue : (linkWrite b s).2.hostQueue = s.hostQueue := rfl
@[simp] theorem linkWrite_replies : (linkWrite b s).2.replies = s.replies := rfl
@[simp] theorem linkWrite_writeAnswers : (linkWrite b s).2.writeAnswers = s.writeAnswers.tail := rfl
@[simp] theorem linkWrite_readAnswers : (linkWrite b s).2.readAnswers = s.readAnswers := rfl
@[simp] theorem linkWrite_trace : (linkWrite b s).2.trace = s.trace ++
    [.write b (nextWriteAnswer b s) (deliveredPart s.trace b (nextWriteAnswer b s))] := rfl
end linkWrite

section linkRead
variable (t : U32) (s : State)
@[simp] theorem linkRead_answer : (linkRead t s).1 = nextReadAnswer t s := rfl
@[simp] theorem linkRead_chanState : (linkRead t s).2.chanState = s.chanState := rfl
@[simp] theorem linkRead_cfg : (linkRead t s).2.cfg = s.cfg := rfl
@[simp] theorem linkRead_seq : (linkRead t s).2.seq = s.seq := rfl
@[simp] theorem linkRead_hostQueue : (linkRead t s).2.hostQueue = s.hostQueue := rfl
@[simp] theorem linkRead_replies : (linkRead t s).2.replies = s.replies := rfl
@[simp] theorem linkRead_writeAnswers : (linkRead t s).2.writeAnswers = s.writeAnswers := rfl
@[simp] theorem linkRead_readAnswers : (linkRead t s).2.readAnswers = s.readAnswers.tail := rfl
@[simp] theorem linkRead_trace : (linkRead t s).2.trace = s.trace ++ [.read t (nextReadAnswer t s)] := rfl
end linkRead

section linkClose
variable (s : State)
@[simp] theorem linkClose_chanState : (linkClose s).chanState = s.chanState := rfl
@[simp] theorem linkClose_cfg : (linkClose s).cfg = s.cfg := rfl
@[simp] theorem linkClose_seq : (linkClose s).seq = s.seq := rfl
@[simp] theorem linkClose_hostQueue : (linkClose s).hostQueue = s.hostQueue := rfl
@[simp] theorem linkClose_replies : (linkClose s).replies = s.replies := rfl
@[simp] theorem linkClose_writeAnswers : (linkClose s).writeAnswers = s.writeAnswers := rfl
@[simp] theorem linkClose_readAnswers : (linkClose s).readAnswers = s.readAnswers := rfl
@[simp] theorem linkClose_trace : (linkClose s).trace = s.trace ++ [.close] := rfl
end linkClose

/-! ### How results thread -/

section res
variable {α β : Type}
@[simp] theorem andThen_ok (a : α) (s : State) (k : α → State → Res β) :
    (Res.mk (.ok a) s).andThen k = k a s := rfl
@[simp] theorem andThen_error (e : Error) (s : State) (k : α → State → Res β) :
    (Res.mk (.error e) s).andThen k = ⟨.error e, s⟩ := rfl
@[simp] theorem fatal_out (e : Error) (s : State) : (fatal e s : Res α).out = .error e := rfl
@[simp] theorem fatal_st (e : Error) (s : State) :
    (fatal e s : Res α).st = { s with chanState := .failed } := rfl
@[simp] theorem fatal_andThen (e : Error) (s : State) (k : α → State → Res β) :
    (fatal e s : Res α).andThen k = fatal e s := rfl
@[simp] theorem finish_value (v : Value) (s : State) : finish ⟨.ok (some v), s⟩ = reply (.value v) s := rfl
@[simp] theorem finish_none (s : State) : finish ⟨.ok none, s⟩ = reply .noResult s := rfl
@[simp] theorem finish_error (e : Error) (s : State) : finish ⟨.error e, s⟩ = reply (.error e) s := rfl
@[simp] theorem finish_fatal (e : Error) (s : State) :
    finish (fatal e s) = reply (.error e) { s with chanState := .failed } := rfl
@[simp] theorem finishPure_ok (v : Value) (s : State) : finishPure (.ok v) s = reply (.value v) s := rfl
@[simp] theorem finishPure_error (e : Error) (s : State) :
    finishPure (.error e) s = reply (.error e) s := rfl
@[simp] theorem map_ok {γ : Type} (f : α → γ) (a : α) : (Except.ok a : Except Error α).map f = .ok (f a) := rfl
@[simp] theorem map_error {γ : Type} (f : α → γ) (e : Error) :
    (Except.error e : Except Error α).map f = .error e := rfl
end res

end Sys2Proof.Laws
end

