-- ==== Sys2Proof/Laws/Ops.lean ====
section
/-!
SUPPORT. What the shared operations can do, said once: the link primitives under a script, the round trip, and a command
with its reader. Later proofs cite these and do not unfold the operations.
-/

namespace Sys2Proof.Laws

open Sys2Proof Sys2Proof.Machine

/-! ### The link primitives -/

theorem nextWriteAnswer_cons {s : State} {a : WriteAnswer} {ws : List WriteAnswer} (b : Bytes)
    (h : s.writeAnswers = a :: ws) : nextWriteAnswer b s = a := by
  simp [nextWriteAnswer, h]

theorem nextReadAnswer_cons {s : State} {a : ReadAnswer} {rs : List ReadAnswer} (t : U32)
    (h : s.readAnswers = a :: rs) : nextReadAnswer t s = readOutcome a := by
  simp [nextReadAnswer, h]

@[simp] theorem readOutcome_ne_empty (a : ReadAnswer) : readOutcome a ≠ .data [] := by
  rcases a with (_ | ⟨b, bs⟩) | _ | _ | _ <;> simp [readOutcome]

theorem readOutcome_data {b : Bytes} (h : b ≠ []) : readOutcome (.data b) = .data b := by
  cases b with
  | nil => exact absurd rfl h
  | cons c bs => rfl

theorem nextReadAnswer_ne_empty (t : U32) (s : State) : nextReadAnswer t s ≠ .data [] :=
  readOutcome_ne_empty _

theorem deliveredPart_prefix (tr : List LinkEvent) (b : Bytes) (a : WriteAnswer) :
    deliveredPart tr b a <+: b := by
  cases a <;> simp [deliveredPart, List.take_prefix]

theorem deliveredPart_ok (tr : List LinkEvent) (b : Bytes) : deliveredPart tr b .ok = b := rfl

/-! ### decode's errors are fatal, the others are not -/

theorem decodeFrame_error_fatal {raw : Bytes} {e : Error} (h : decodeFrame raw = .error e) :
    e.isFatal = true := by
  unfold decodeFrame at h
  split at h <;> try cases h
  split at h <;> try cases h
  split at h <;> try cases h
  repeat (split at h <;> first | (cases h; rfl) | skip)
  cases h

theorem decodeFrame_bytes {raw : Bytes} {f : Frame} (h : decodeFrame raw = .ok f) : f.bytes = raw := by
  unfold decodeFrame at h
  repeat' split at h
  all_goals cases h
  all_goals rfl

theorem commandOpcode_error {cmd : Byte} {e : Error} (h : commandOpcode cmd = .error e) :
    e = .parameterError cmd := by
  unfold commandOpcode at h
  split at h <;> cases h
  rfl

theorem commandOpcode_ok_mem {cmd op : Byte} (h : commandOpcode cmd = .ok op) :
    op ∈ ([0x00, 0x02, 0x04, 0x06, 0x2A, 0x20, 0x22] : Bytes) := by
  unfold commandOpcode at h
  split at h
  · next row hrow =>
    cases h
    have := List.mem_of_getElem? hrow
    simp only [opcodeTable, List.mem_cons, List.not_mem_nil, or_false] at this
    rcases this with rfl | rfl | rfl | rfl | rfl | rfl | rfl <;> decide
  · cases h

theorem buildRequest_ok {cmd : Byte} {args req : Bytes} (h : buildRequest cmd args = .ok req) :
    ∃ op, commandOpcode cmd = .ok op ∧ req = 0xD6 :: op :: args ∧ args.length ≤ 65533 := by
  unfold buildRequest at h
  split at h
  · cases h
  · next op hop =>
    split at h
    · cases h
    · next hl =>
      cases h
      exact ⟨op, hop, rfl, by simp only [maxPayloadLen] at hl; omega⟩

theorem buildRequest_of_opcode {cmd op : Byte} {args : Bytes} (h : commandOpcode cmd = .ok op)
    (hl : args.length ≤ 65533) : buildRequest cmd args = .ok (0xD6 :: op :: args) := by
  have : ¬ (2 + args.length > maxPayloadLen) := by simp only [maxPayloadLen]; omega
  simp [buildRequest, h, this, reqHdr]

theorem buildRequest_error_not_fatal {cmd : Byte} {args : Bytes} {e : Error}
    (h : buildRequest cmd args = .error e) : e.isFatal = false := by
  unfold buildRequest at h
  split at h
  · next e' he =>
    cases h
    rw [commandOpcode_error he]
    rfl
  · split at h
    · cases h; rfl
    · cases h

theorem checkResponse_error_not_fatal {cmd : Byte} {p : Bytes} {e : Error}
    (h : checkResponse cmd p = .error e) : e.isFatal = false := by
  unfold checkResponse at h
  split at h
  · next e' he =>
    cases h
    rw [commandOpcode_error he]
    rfl
  · split at h <;> cases h

theorem payloadOf_error_not_fatal {f : Frame} {e : Error} (h : payloadOf f = .error e) :
    e.isFatal = false := by
  unfold payloadOf at h
  split at h <;> cases h
  rfl

/-! ### Parts of a link operation -/

/-- `t` is `s` after the link interactions `l`, with at most the channel state changed beside. -/
structure Extends (s t : State) (l : List LinkEvent) : Prop where
  cfg : t.cfg = s.cfg
  seq : t.seq = s.seq
  hostQueue : t.hostQueue = s.hostQueue
  replies : t.replies = s.replies
  trace : t.trace = s.trace ++ l
  writeAnswers : t.writeAnswers <:+ s.writeAnswers
  readAnswers : t.readAnswers <:+ s.readAnswers

theorem Extends.refl (s : State) : Extends s s [] :=
  ⟨rfl, rfl, rfl, rfl, by simp, List.suffix_refl _, List.suffix_refl _⟩

theorem Extends.trans {s t u : State} {l m : List LinkEvent} (h : Extends s t l) (k : Extends t u m) :
    Extends s u (l ++ m) :=
  ⟨k.cfg.trans h.cfg, k.seq.trans h.seq, k.hostQueue.trans h.hostQueue, k.replies.trans h.replies,
    by rw [k.trace, h.trace, List.append_assoc], k.writeAnswers.trans h.writeAnswers,
    k.readAnswers.trans h.readAnswers⟩

theorem extends_linkWrite (b : Bytes) (s : State) : Extends s (linkWrite b s).2
    [.write b (nextWriteAnswer b s) (deliveredPart s.trace b (nextWriteAnswer b s))] :=
  ⟨rfl, rfl, rfl, rfl, rfl, List.tail_suffix _, List.suffix_refl _⟩

theorem extends_linkRead (t : U32) (s : State) :
    Extends s (linkRead t s).2 [.read t (nextReadAnswer t s)] :=
  ⟨rfl, rfl, rfl, rfl, rfl, List.suffix_refl _, List.tail_suffix _⟩

theorem Extends.failed {s t : State} {l : List LinkEvent} (h : Extends s t l) :
    Extends s { t with chanState := .failed } l :=
  ⟨h.cfg, h.seq, h.hostQueue, h.replies, h.trace, h.writeAnswers, h.readAnswers⟩

/-- A result is fatal and has latched FAILED, or is not fatal and has left the channel state `c`. -/
def Latched {α : Type} (c : ChanState) (r : Res α) : Prop :=
  (∃ e, r.out = .error e ∧ e.isFatal = true ∧ r.st.chanState = .failed) ∨
  ((∀ e, r.out = .error e → e.isFatal = false) ∧ r.st.chanState = c)

theorem linkWriteOrFatal_spec (b : Bytes) (s : State) :
    (nextWriteAnswer b s = .ok ∧ linkWriteOrFatal b s = ⟨.ok (), (linkWrite b s).2⟩) ∨
    (nextWriteAnswer b s ≠ .ok ∧ ∃ k,
      linkWriteOrFatal b s = fatal (.ioError k) (linkWrite b s).2) := by
  unfold linkWriteOrFatal
  simp only [linkWrite_answer]
  rcases nextWriteAnswer b s <;> simp [writeError] <;> exact ⟨_, rfl⟩

/-- A frame read: one read interaction, and the frame decode gave, or a fatal error. -/
theorem readFrameOrFatal_spec (s : State) :
    (∃ raw f, nextReadAnswer s.cfg.respTimeoutMs s = .data raw ∧ decodeFrame raw = .ok f ∧
      readFrameOrFatal s = ⟨.ok f, (linkRead s.cfg.respTimeoutMs s).2⟩) ∨
    (∃ e, e.isFatal = true ∧
      readFrameOrFatal s = fatal e (linkRead s.cfg.respTimeoutMs s).2) := by
  unfold readFrameOrFatal
  simp only [linkRead_answer]
  rcases nextReadAnswer s.cfg.respTimeoutMs s with raw | _ | _ | _
  · dsimp only
    rcases h : decodeFrame raw with e | f
    · exact .inr ⟨e, decodeFrame_error_fatal h, rfl⟩
    · exact .inl ⟨raw, f, rfl, h, rfl⟩
  all_goals exact .inr ⟨_, rfl, rfl⟩

/-- The link interactions a round trip can make (42_dispatch.md R135). -/
def RoundTripEvents (cfg : ConfigRegs) (l : List LinkEvent) : Prop :=
  l = [] ∨
  ∃ p, IsRequest p ∧
    ((∃ w d, w ≠ .ok ∧ d <+: dataFrame p ∧ l = [.write (dataFrame p) w d]) ∨
     (∃ a, a ≠ .data [] ∧
       l = [.write (dataFrame p) .ok (dataFrame p), .read cfg.respTimeoutMs a]) ∨
     (∃ a b, a ≠ .data [] ∧ b ≠ .data [] ∧
       l = [.write (dataFrame p) .ok (dataFrame p), .read cfg.respTimeoutMs a,
         .read cfg.respTimeoutMs b]))

theorem awaitResponse_spec (cmd : Byte) (s : State) :
    ∃ l, Extends s (awaitResponse cmd s).st l ∧ Latched s.chanState (awaitResponse cmd s) ∧
      ((∃ a, a ≠ .data [] ∧ l = [.read s.cfg.respTimeoutMs a]) ∨
       (∃ a b, a ≠ .data [] ∧ b ≠ .data [] ∧
         l = [.read s.cfg.respTimeoutMs a, .read s.cfg.respTimeoutMs b])) := by
  unfold awaitResponse
  have h1 := extends_linkRead s.cfg.respTimeoutMs s
  have n1 := nextReadAnswer_ne_empty s.cfg.respTimeoutMs s
  rcases readFrameOrFatal_spec s with ⟨raw, f, -, -, h⟩ | ⟨e, he, h⟩
  · rw [h, andThen_ok]
    by_cases hk : f.kind = .ack
    · rw [if_neg (not_not_intro hk)]
      set s1 := (linkRead s.cfg.respTimeoutMs s).2 with hs1
      have hc : s1.cfg = s.cfg := rfl
      have h2 := h1.trans (extends_linkRead s1.cfg.respTimeoutMs s1)
      have n2 := nextReadAnswer_ne_empty s1.cfg.respTimeoutMs s1
      rcases readFrameOrFatal_spec s1 with ⟨raw2, f2, -, -, h'⟩ | ⟨e, he, h'⟩
      · rw [h', andThen_ok]
        have lt : Latched s.chanState (if f2.kind ≠ .data then
            (⟨.ok none, (linkRead s1.cfg.respTimeoutMs s1).2⟩ : Res (Option Bytes))
          else ⟨(payloadOf f2).bind (checkResponse cmd), (linkRead s1.cfg.respTimeoutMs s1).2⟩) := by
          refine .inr ⟨fun e he => ?_, by split <;> rfl⟩
          split at he
          · cases he
          · rcases hp : payloadOf f2 with e' | p <;> rw [hp] at he
            · cases he
              exact payloadOf_error_not_fatal hp
            · exact checkResponse_error_not_fatal he
        refine ⟨_, ?_, lt, .inr ⟨_, _, n1, n2, rfl⟩⟩
        split <;> exact h2
      · rw [h', fatal_andThen]
        exact ⟨_, h2.failed, .inl ⟨e, rfl, he, rfl⟩, .inr ⟨_, _, n1, n2, rfl⟩⟩
    · rw [if_pos hk]
      exact ⟨_, h1, .inr ⟨fun e he => (by cases he), rfl⟩, .inl ⟨_, n1, rfl⟩⟩
  · rw [h, fatal_andThen]
    exact ⟨_, h1.failed, .inl ⟨e, rfl, he, rfl⟩, .inl ⟨_, n1, rfl⟩⟩

/-- Everything a round trip can do: its link interactions are those of R135, and it latches exactly on a fatal error. -/
theorem roundTrip_spec (cmd : Byte) (args : Bytes) (s : State) :
    ∃ l, Extends s (roundTrip cmd args s).st l ∧ Latched s.chanState (roundTrip cmd args s) ∧
      RoundTripEvents s.cfg l := by
  unfold roundTrip
  rcases hb : buildRequest cmd args with e | req
  · exact ⟨[], Extends.refl s, .inr ⟨fun e' he' => (by
      cases he'; exact buildRequest_error_not_fatal hb), rfl⟩, .inl rfl⟩
  · obtain ⟨op, hop, rfl, hl⟩ := buildRequest_ok hb
    have hreq : IsRequest (0xD6 :: op :: args) :=
      ⟨op, args, rfl, commandOpcode_ok_mem hop, by simp; omega⟩
    have henc : encodeFrame (0xD6 :: op :: args) = .ok (dataFrame (0xD6 :: op :: args)) := by
      rw [encodeFrame, if_neg]
      simp only [maxPayloadLen, List.length_cons]
      omega
    simp only [Except.bind, henc]
    have h1 := extends_linkWrite (dataFrame (0xD6 :: op :: args)) s
    rcases linkWriteOrFatal_spec (dataFrame (0xD6 :: op :: args)) s with ⟨ha, h⟩ | ⟨ha, k, h⟩
    · rw [h, andThen_ok]
      obtain ⟨l, hx, hlt, hl'⟩ := awaitResponse_spec cmd (linkWrite (dataFrame (0xD6 :: op :: args)) s).2
      refine ⟨_, h1.trans hx, hlt, .inr ⟨_, hreq, ?_⟩⟩
      simp only [ha, deliveredPart_ok]
      rcases hl' with ⟨a, n, rfl⟩ | ⟨a, b, n, m, rfl⟩
      · exact .inr (.inl ⟨a, n, rfl⟩)
      · exact .inr (.inr ⟨a, b, n, m, rfl⟩)
    · rw [h, fatal_andThen]
      exact ⟨_, h1.failed, .inl ⟨_, rfl, rfl, rfl⟩,
        .inr ⟨_, hreq, .inl ⟨_, _, ha, deliveredPart_prefix _ _ _, rfl⟩⟩⟩

/-- A reader of results raises no fatal error. -/
def ReaderSafe (read : Bytes → Except Error Value) : Prop :=
  ∀ b e, read b = .error e → e.isFatal = false

theorem readStatus_safe : ReaderSafe readStatus := by
  intro b e h
  cases b with
  | nil => cases h; rfl
  | cons c bs =>
    simp only [readStatus] at h
    split at h <;> cases h
    rfl

theorem fromLE16_error {b : Bytes} {e : Error} (h : fromLE16 b = .error e) :
    e = .resultShape b.length := by
  unfold fromLE16 at h
  split at h <;> cases h
  rfl

theorem fromLE32_error {b : Bytes} {e : Error} (h : fromLE32 b = .error e) :
    e = .resultShape b.length := by
  unfold fromLE32 at h
  split at h <;> cases h
  rfl

theorem readVersion_safe : ReaderSafe readVersion := by
  intro b e h
  unfold readVersion at h
  split at h
  · cases h; rfl
  · rcases hf : fromLE16 (slice b 0 2) with e' | v <;> rw [hf] at h <;> cases h
    rw [fromLE16_error hf]
    rfl

theorem readComm_safe : ReaderSafe readComm := by
  intro b e h
  unfold readComm at h
  split at h
  · cases h; rfl
  · split at h
    · next hf =>
      cases h
      rw [fromLE32_error hf]
      rfl
    · repeat' split at h
      all_goals cases h
      all_goals rfl

theorem readRaw_safe : ReaderSafe readRaw := by
  intro b e h
  cases h

/-- Everything a command can do: as its round trip, and the reader adds no fatal error. -/
theorem command_spec (cmd : Byte) (args : Bytes) {read : Bytes → Except Error Value}
    (hr : ReaderSafe read) (s : State) :
    ∃ l, Extends s (command cmd args read s).st l ∧ Latched s.chanState (command cmd args read s) ∧
      RoundTripEvents s.cfg l := by
  obtain ⟨l, hx, hl, he⟩ := roundTrip_spec cmd args s
  refine ⟨l, ?_⟩
  unfold command
  rcases hrt : roundTrip cmd args s with ⟨(e | (_ | r)), t⟩ <;> rw [hrt] at hx hl
  · refine ⟨hx, ?_, he⟩
    rcases hl with ⟨e', h1, h2, h3⟩ | ⟨h1, h2⟩
    · cases h1; exact .inl ⟨e, rfl, h2, h3⟩
    · exact .inr ⟨fun e' h => (by cases h; exact h1 _ rfl), h2⟩
  · refine ⟨hx, ?_, he⟩
    rcases hl with ⟨e', h1, -⟩ | ⟨-, h2⟩
    · cases h1
    · exact .inr ⟨fun e' h => (by cases h), h2⟩
  · refine ⟨hx, ?_, he⟩
    rcases hl with ⟨e', h1, -⟩ | ⟨-, h2⟩
    · cases h1
    · refine .inr ⟨fun e' h => ?_, h2⟩
      rcases hv : read r with e'' | v
      · simp only [andThen_ok, hv, map_error] at h
        cases h
        exact hr _ _ hv
      · simp only [andThen_ok, hv, map_ok] at h
        cases h

/-- Every interaction of a round trip is legal. -/
theorem RoundTripEvents.legal {cfg : ConfigRegs} {l : List LinkEvent} (h : RoundTripEvents cfg l) :
    ∀ e ∈ l, EventLegal cfg e := by
  rcases h with rfl | ⟨p, hp, ⟨w, d, hw, hd, rfl⟩ | ⟨a, ha, rfl⟩ | ⟨a, b, ha, hb, rfl⟩⟩
  · simp
  · simp only [List.mem_singleton, forall_eq]
    exact ⟨.inr ⟨p, hp, rfl⟩, hd, fun h => absurd h hw⟩
  all_goals
    simp only [List.mem_cons, List.not_mem_nil, or_false, forall_eq_or_imp, forall_eq]
    refine ⟨⟨.inr ⟨p, hp, rfl⟩, List.prefix_refl _, fun _ => rfl⟩, ?_⟩
  · exact ⟨.inl rfl, ha⟩
  · exact ⟨⟨.inl rfl, ha⟩, .inl rfl, hb⟩

theorem RoundTripEvents.no_close {cfg : ConfigRegs} {l : List LinkEvent} (h : RoundTripEvents cfg l) :
    l.count .close = 0 := by
  rcases h with rfl | ⟨p, -, ⟨w, d, -, -, rfl⟩ | ⟨a, -, rfl⟩ | ⟨a, b, -, -, rfl⟩⟩ <;>
    simp

/-! ### Ending an operation -/

/-- finish gives exactly one reply and changes nothing else. -/
theorem finish_spec (r : Res (Option Value)) :
    ∃ rep, finish r = reply rep r.st ∧ (∀ e, rep = .error e ↔ r.out = .error e) := by
  rcases r with ⟨(e | (_ | v)), s⟩
  · exact ⟨.error e, rfl, fun e' => by simp⟩
  · exact ⟨.noResult, rfl, fun e' => by simp⟩
  · exact ⟨.value v, rfl, fun e' => by simp⟩

end Sys2Proof.Laws
end

