-- ==== Sys2Proof/Laws/Link.lean ====
section
/-!
SUPPORT. The gated link operations: what one can do whatever the link answers, and the shared round trip on a link whose
next answers are known.
-/

namespace Sys2Proof.Laws

open Sys2Proof Sys2Proof.Machine

/-- What a gated link operation can do: its link interactions `l` are those of a round trip, none outside OPEN, and it
latches exactly on a fatal error. -/
structure LinkResult (s : State) (r : Res (Option Value)) (l : List LinkEvent) : Prop where
  changes : Extends s r.st l
  latched : Latched s.chanState r
  events : RoundTripEvents s.cfg l
  quiet : s.chanState ≠ .opened → l = []

/-- A gate over a body that ends before the link with an error that is not fatal, or is a command. -/
theorem gated_spec (s : State) {body : State → Res (Option Value)}
    (h : (∃ e, e.isFatal = false ∧ body s = ⟨.error e, s⟩) ∨
      ∃ cmd args read, ReaderSafe read ∧ body s = command cmd args read s) :
    ∃ l, LinkResult s (gated s body) l := by
  unfold gated
  split
  · exact ⟨[], Extends.refl s, .inr ⟨fun e he => (by cases he; rfl), rfl⟩, .inl rfl, fun _ => rfl⟩
  · next ho =>
    rcases h with ⟨e, he, hb⟩ | ⟨cmd, args, read, hr, hb⟩ <;> rw [hb]
    · exact ⟨[], Extends.refl s, .inr ⟨fun e' he' => (by cases he'; exact he), rfl⟩, .inl rfl,
        fun _ => rfl⟩
    · obtain ⟨l, hx, hl, hv⟩ := command_spec cmd args hr s
      exact ⟨l, hx, hl, hv, fun h' => absurd h' ho⟩

theorem optionRejected_not_fatal {cfg : ConfigRegs} {o : Option Byte} {e : Error}
    (h : optionRejected cfg o = some e) : e.isFatal = false := by
  unfold optionRejected at h
  repeat' split at h
  all_goals cases h
  rfl

theorem bitrateLookup_not_fatal {cfg : ConfigRegs} {send : Byte} {recv : Option Byte} {e : Error}
    (h : bitrateLookup cfg send recv = .error e) : e.isFatal = false := by
  unfold bitrateLookup at h
  repeat' split at h
  all_goals cases h
  all_goals rfl

/-! ### A link whose next answers are known -/

theorem encodeFrame_ok {p : Bytes} (h : p.length ≤ 65535) : encodeFrame p = .ok (dataFrame p) := by
  rw [encodeFrame, if_neg]
  simp only [maxPayloadLen]
  omega

/-- A round trip whose write is accepted goes on with its reads. -/
theorem roundTrip_written {cmd op : Byte} {args : Bytes} {s : State} {ws : List WriteAnswer}
    (ho : commandOpcode cmd = .ok op) (hl : args.length ≤ 65533) (hw : s.writeAnswers = .ok :: ws) :
    roundTrip cmd args s = awaitResponse cmd { s with
      writeAnswers := ws
      trace := s.trace ++
        [.write (dataFrame (0xD6 :: op :: args)) .ok (dataFrame (0xD6 :: op :: args))] } := by
  have e : encodeFrame (0xD6 :: op :: args) = .ok (dataFrame (0xD6 :: op :: args)) :=
    encodeFrame_ok (by simp only [List.length_cons]; omega)
  simp only [roundTrip, buildRequest_of_opcode ho hl, Except.bind, e, linkWriteOrFatal, linkWrite,
    nextWriteAnswer, hw, writeError, andThen_ok, deliveredPart, List.tail_cons]

/-- A frame read whose answer is a transfer that decode accepts. -/
theorem readFrameOrFatal_data {s : State} {raw : Bytes} {f : Frame} {rs : List ReadAnswer}
    (hr : s.readAnswers = .data raw :: rs) (hne : raw ≠ []) (hd : decodeFrame raw = .ok f) :
    readFrameOrFatal s = ⟨.ok f, { s with
      readAnswers := rs
      trace := s.trace ++ [.read s.cfg.respTimeoutMs (.data raw)] }⟩ := by
  simp only [readFrameOrFatal, linkRead, nextReadAnswer, hr, readOutcome_data hne, hd, List.tail_cons]

theorem checkResponse_match {cmd op : Byte} (results : Bytes) (ho : commandOpcode cmd = .ok op) :
    checkResponse cmd (0xD7 :: (op + 1) :: results) = .ok (some results) := by
  simp [checkResponse, ho, rspHdr]

theorem checkResponse_mismatch {cmd op : Byte} {p : Bytes} (ho : commandOpcode cmd = .ok op)
    (h : ¬ ∃ results, p = 0xD7 :: (op + 1) :: results) : checkResponse cmd p = .ok none := by
  simp only [checkResponse, ho]
  match p, h with
  | [], _ => rfl
  | [_], _ => rfl
  | a :: b :: r, h =>
    have : ¬ (a = rspHdr ∧ b = op + 1) := by
      rintro ⟨rfl, rfl⟩
      exact h ⟨r, rfl⟩
    dsimp only
    rw [if_neg this]

theorem decodeFrame_data_ne_nil {raw : Bytes} (h : decodeFrame raw = .ok ⟨raw, .data⟩) : raw ≠ [] := by
  rintro rfl
  cases h

theorem insertPair_length (p : Byte × Byte) (l : List (Byte × Byte)) :
    (insertPair p l).length = l.length + 1 := by
  induction l with
  | nil => rfl
  | cons q l ih =>
    simp only [insertPair]
    split <;> simp [ih]

theorem sortPairs_length (l : List (Byte × Byte)) : (sortPairs l).length = l.length := by
  induction l with
  | nil => rfl
  | cons p l ih => simp [sortPairs, insertPair_length, ih]

theorem serializePairs_length (ps : List (Byte × Byte)) : (serializePairs ps).length = 2 * ps.length := by
  induction ps with
  | nil => rfl
  | cons p ps ih =>
    simp only [serializePairs, List.flatMap_cons, List.length_append, List.length_cons, List.length_nil] at *
    omega

/-- The args of InSetProtocol are at most 38 bytes (43_commands.md R166). -/
theorem protocolArgs_length (cfg : ConfigRegs) (params : ProtocolParameters) :
    (protocolArgs cfg params).length ≤ 38 := by
  have h : (presentPairs cfg.protocolKeyId.toList (protocolValues params)).length ≤ 19 :=
    (List.length_filterMap_le _ _).trans (by simp [protocolValues])
  rw [protocolArgs, serializePairs_length, sortPairs_length]
  omega

/-- A round trip whose two reads bring the Ack and a frame: None unless the frame is Data, then the response check. -/
theorem roundTrip_answered {cmd op : Byte} {args raw : Bytes} {f : Frame} {s : State}
    {ws : List WriteAnswer} {rs : List ReadAnswer} (ho : commandOpcode cmd = .ok op)
    (hl : args.length ≤ 65533) (hw : s.writeAnswers = .ok :: ws)
    (hr : s.readAnswers = .data ackFrame :: .data raw :: rs) (hne : raw ≠ [])
    (hd : decodeFrame raw = .ok f) :
    roundTrip cmd args s =
      ⟨if f.kind ≠ .data then .ok none else (payloadOf f).bind (checkResponse cmd), { s with
        writeAnswers := ws
        readAnswers := rs
        trace := s.trace ++ exchange s.cfg (0xD6 :: op :: args) raw }⟩ := by
  rw [roundTrip_written ho hl hw, awaitResponse,
    readFrameOrFatal_data (s := { s with writeAnswers := ws, trace := _ }) (f := ⟨ackFrame, .ack⟩) hr
      (by decide) rfl, andThen_ok,
    if_neg (not_not_intro rfl), readFrameOrFatal_data rfl hne hd, andThen_ok]
  split <;> simp [exchange]

/-- A round trip whose reads are a protocol mismatch is None, with exactly those reads made. -/
theorem roundTrip_mismatched {cmd op : Byte} {args : Bytes} {s : State} {reads rs : List ReadAnswer}
    {ws : List WriteAnswer} (ho : commandOpcode cmd = .ok op) (hl : args.length ≤ 65533)
    (hw : s.writeAnswers = .ok :: ws) (hr : s.readAnswers = reads ++ rs) (hm : Mismatched op reads) :
    roundTrip cmd args s = ⟨.ok none, { s with
      writeAnswers := ws
      readAnswers := rs
      trace := s.trace ++ .write (dataFrame (0xD6 :: op :: args)) .ok (dataFrame (0xD6 :: op :: args)) ::
        reads.map (.read s.cfg.respTimeoutMs) }⟩ := by
  rcases hm with @⟨raw, k, hne, hd, hk⟩ | @⟨raw, k, hne, hd, hk⟩ | @⟨raw, p, hd, hp, hn⟩
  · rw [roundTrip_written ho hl hw, awaitResponse,
      readFrameOrFatal_data (s := { s with writeAnswers := ws, trace := _ }) hr hne hd, andThen_ok, if_pos hk]
    simp
  · rw [roundTrip_answered ho hl hw hr hne hd, if_pos hk]
    rfl
  · rw [roundTrip_answered ho hl hw hr (decodeFrame_data_ne_nil hd) hd, if_neg (not_not_intro rfl), hp]
    exact congrArg (Res.mk · _) (checkResponse_mismatch ho hn)

/-! ### The instructions that send a request -/

/-- An instruction that sends a request is, on an OPEN channel, the command with that request and a reader of its own. -/
theorem sends_exec {s : State} {i : Instr} {op : Byte} {args : Bytes} (h : Sends s.cfg i op args)
    (ho : s.chanState = .opened) : ∃ cmd read, commandOpcode cmd = .ok op ∧ args.length ≤ 65533 ∧
      ReaderSafe read ∧ exec i s = .next (finish (command cmd args read s)) := by
  have gate : ∀ body : State → Res (Option Value), gated s body = body s := fun body =>
    if_neg (not_not_intro ho)
  have link : ∀ cmd args read, linkOperation cmd args read s = finish (command cmd args read s) :=
    fun cmd args read => congrArg finish (gate _)
  cases h with
  | sendCommand hc hl => exact ⟨_, readRaw, hc, hl, readRaw_safe, congrArg _ (link ..)⟩
  | setCommandType n | reqSetCommandType n =>
    exact ⟨commandIndex .setCommandType, _, rfl, by simp, readStatus_safe, congrArg _ (link ..)⟩
  | switchRF on | reqSwitchRF on =>
    exact ⟨commandIndex .switchRF, _, rfl, by simp, readStatus_safe, congrArg _ (link ..)⟩
  | @getFirmwareVersion option hm =>
    have e : optionRejected s.cfg option = none := by
      cases option with
      | none => rfl
      | some o => simp [optionRejected, hm o rfl]
    exact ⟨commandIndex .getFirmwareVersion, _, rfl, by cases option <;> simp, readVersion_safe, by
      simp only [exec, execGetFirmwareVersion, gate, e, optionArgs]⟩
  | reqGetFirmwareVersion option =>
    exact ⟨commandIndex .getFirmwareVersion, _, rfl, by cases option <;> simp, readVersion_safe,
      congrArg _ (link ..)⟩
  | getPDDataVersion | reqGetPDDataVersion =>
    exact ⟨commandIndex .getPDDataVersion, _, rfl, by simp, readVersion_safe, congrArg _ (link ..)⟩
  | inSetRF ht hv =>
    exact ⟨commandIndex .inSetRF, _, rfl, by simp, readStatus_safe, by
      simp only [exec, execInSetRF, gate, bitrateLookup, ht, hv, bitrateArgs]⟩
  | reqInSetRF s0 s1 r2 r3 =>
    exact ⟨commandIndex .inSetRF, _, rfl, by simp, readStatus_safe, congrArg _ (link ..)⟩
  | inSetProtocol params =>
    exact ⟨commandIndex .inSetProtocol, _, rfl, (protocolArgs_length s.cfg params).trans (by decide),
      readStatus_safe, congrArg _ (link ..)⟩
  | @reqInSetProtocol pairs hl =>
    exact ⟨commandIndex .inSetProtocol, _, rfl, (serializePairs_length pairs).trans_le hl,
      readStatus_safe, congrArg _ (link ..)⟩
  | inCommRF _ hl | reqInCommRF _ hl =>
    exact ⟨commandIndex .inCommRF, _, rfl, by simp; omega, readComm_safe, congrArg _ (link ..)⟩

/-! ### The channel state only gates and latches -/

/-- Two results that differ in nothing but the channel state. -/
def SameButChan {α : Type} (r r' : Res α) : Prop :=
  r'.out = r.out ∧ ∃ c, r'.st = { r.st with chanState := c }

theorem SameButChan.andThen {α β : Type} {r r' : Res α} {k : α → State → Res β}
    (h : SameButChan r r') (hk : ∀ a s c, SameButChan (k a s) (k a { s with chanState := c })) :
    SameButChan (r.andThen k) (r'.andThen k) := by
  rcases r with ⟨_ | _, s⟩ <;> rcases r' with ⟨_ | _, s'⟩ <;> obtain ⟨ho, c, rfl⟩ := h <;> cases ho
  · exact ⟨rfl, c, rfl⟩
  · exact hk _ _ _

theorem readFrameOrFatal_sameButChan (s : State) (c : ChanState) :
    SameButChan (readFrameOrFatal s) (readFrameOrFatal { s with chanState := c }) := by
  have e : nextReadAnswer s.cfg.respTimeoutMs { s with chanState := c } =
    nextReadAnswer s.cfg.respTimeoutMs s := rfl
  simp only [readFrameOrFatal, linkRead, e]
  rcases nextReadAnswer s.cfg.respTimeoutMs s with raw | _ | _ | _
  · dsimp only
    cases decodeFrame raw <;> exact ⟨rfl, _, rfl⟩
  all_goals exact ⟨rfl, _, rfl⟩

theorem linkWriteOrFatal_sameButChan (b : Bytes) (s : State) (c : ChanState) :
    SameButChan (linkWriteOrFatal b s) (linkWriteOrFatal b { s with chanState := c }) := by
  have e : nextWriteAnswer b { s with chanState := c } = nextWriteAnswer b s := rfl
  simp only [linkWriteOrFatal, linkWrite, e]
  cases nextWriteAnswer b s <;> exact ⟨rfl, _, rfl⟩

/-- Past its gate a command reads no channel state: from two states that differ in it alone it answers the same, and
leaves states that differ in it alone. -/
theorem command_sameButChan (cmd : Byte) (args : Bytes) (read : Bytes → Except Error Value)
    (s : State) (c : ChanState) :
    SameButChan (command cmd args read s) (command cmd args read { s with chanState := c }) := by
  have await : ∀ (s : State) (c : ChanState),
      SameButChan (awaitResponse cmd s) (awaitResponse cmd { s with chanState := c }) := fun s c => by
    refine (readFrameOrFatal_sameButChan s c).andThen fun f s c => ?_
    split
    · exact ⟨rfl, c, rfl⟩
    · refine (readFrameOrFatal_sameButChan s c).andThen fun f s c => ?_
      split <;> exact ⟨rfl, c, rfl⟩
  refine SameButChan.andThen ?_ fun o s c => by cases o <;> exact ⟨rfl, c, rfl⟩
  unfold roundTrip
  split
  · exact ⟨rfl, c, rfl⟩
  · exact (linkWriteOrFatal_sameButChan _ s c).andThen fun _ s c => await s c

end Sys2Proof.Laws
end

