-- ==== Sys2Proof/Laws/Channel.lean ====
section
/-!
SUPPORT. What the parts of open can do: the drain, the two internal commands, and the end.
-/

namespace Sys2Proof.Laws

open Sys2Proof Sys2Proof.Machine

/-- The link interactions of a drain: reads with `DRAIN_TIMEOUT_MS`. -/
def DrainEvents (cfg : ConfigRegs) (l : List LinkEvent) : Prop :=
  ∀ e ∈ l, ∃ a, a ≠ .data [] ∧ e = .read cfg.drainTimeoutMs a

/-- One drain read makes one link interaction and leaves the channel state. -/
theorem drainRead_spec (s : State) :
    Extends s (drainRead s).2 [.read s.cfg.drainTimeoutMs (nextReadAnswer s.cfg.drainTimeoutMs s)] ∧
      (drainRead s).2.chanState = s.chanState := by
  have h := extends_linkRead s.cfg.drainTimeoutMs s
  have e : (drainRead s).2 = (linkRead s.cfg.drainTimeoutMs s).2 := by
    unfold drainRead
    dsimp only
    split <;> rfl
  rw [e]
  exact ⟨h, rfl⟩

theorem drainReady_spec (n : Nat) (s : State) :
    ∃ l, Extends s (drainReady n s).2 l ∧ (drainReady n s).2.chanState = s.chanState ∧
      DrainEvents s.cfg l := by
  induction n generalizing s with
  | zero => exact ⟨[], Extends.refl s, rfl, by simp [DrainEvents]⟩
  | succ n ih =>
    obtain ⟨hx, hc⟩ := drainRead_spec s
    have hn := nextReadAnswer_ne_empty s.cfg.drainTimeoutMs s
    unfold drainReady
    rcases hd : drainRead s with ⟨_ | _ | e, s1⟩ <;> rw [hd] at hx hc
    · obtain ⟨l, hx', hc', hl⟩ := ih s1
      refine ⟨_, hx.trans hx', hc'.trans hc, fun e he => ?_⟩
      rcases List.mem_append.1 he with he | he
      · exact ⟨_, hn, List.mem_singleton.1 he⟩
      · obtain ⟨a, ha, rfl⟩ := hl e he
        exact ⟨a, ha, by rw [hx.cfg]⟩
    · exact ⟨_, hx, hc, fun e he => ⟨_, hn, List.mem_singleton.1 he⟩⟩
    · exact ⟨_, hx, hc, fun e he => ⟨_, hn, List.mem_singleton.1 he⟩⟩

theorem openCommand_spec (cmd : Byte) (args : Bytes) (s : State) :
    ∃ l, Extends s (openCommand cmd args s).st l ∧ RoundTripEvents s.cfg l := by
  obtain ⟨l, hx, -, hl⟩ := command_spec cmd args readStatus_safe s
  refine ⟨l, ?_, hl⟩
  unfold openCommand
  rcases hc : command cmd args readStatus s with ⟨(e | (_ | v)), t⟩ <;> rw [hc] at hx <;> exact hx

/-- Step 3 of open makes at most two round trips. -/
theorem openCommands_spec (s : State) :
    ∃ l m, Extends s (openCommands s).st (l ++ m) ∧ RoundTripEvents s.cfg l ∧
      RoundTripEvents s.cfg m := by
  obtain ⟨l, hx, hl⟩ := openCommand_spec (commandIndex .setCommandType) [0x01] s
  unfold openCommands
  rcases hc : openCommand (commandIndex .setCommandType) [0x01] s with ⟨e | u, t⟩ <;> rw [hc] at hx
  · exact ⟨l, [], by simpa using hx, hl, .inl rfl⟩
  · obtain ⟨m, hx', hm⟩ := openCommand_spec (commandIndex .switchRF) (switchArgs false) t
    refine ⟨l, m, hx.trans hx', hl, ?_⟩
    rw [← hx.cfg]
    exact hm

@[simp] theorem openEnd_ok (s : State) : openEnd ⟨.ok (), s⟩ =
    reply (.value .nothing) { s with chanState := .opened, seq := .start } := rfl
@[simp] theorem openEnd_error (e : Error) (s : State) : openEnd ⟨.error e, s⟩ =
    reply (.error e) { s with chanState := .failed, seq := .start } := rfl
@[simp] theorem openEnd_fatal (e : Error) (s : State) : openEnd (fatal e s) =
    reply (.error e) { s with chanState := .failed, seq := .start } := rfl
@[simp] theorem openEnd_seq (r : Res Unit) : (openEnd r).seq = .start := by
  rcases r with ⟨_ | _, _⟩ <;> rfl
@[simp] theorem openEnd_cfg (r : Res Unit) : (openEnd r).cfg = r.st.cfg := by
  rcases r with ⟨_ | _, _⟩ <;> rfl
@[simp] theorem openEnd_hostQueue (r : Res Unit) : (openEnd r).hostQueue = r.st.hostQueue := by
  rcases r with ⟨_ | _, _⟩ <;> rfl
@[simp] theorem openEnd_trace (r : Res Unit) : (openEnd r).trace = r.st.trace := by
  rcases r with ⟨_ | _, _⟩ <;> rfl

/-! ### A drain whose transfers are known -/

/-- The drain reads the transfers `stale` away and goes on. -/
theorem drainReady_stale {stale : List Bytes} (h : ∀ b ∈ stale, b ≠ []) (n : Nat)
    {rs : List ReadAnswer} {s : State} (hr : s.readAnswers = stale.map .data ++ rs) :
    drainReady (stale.length + n) s = drainReady n { s with
      readAnswers := rs
      trace := s.trace ++ stale.map (fun b => .read s.cfg.drainTimeoutMs (.data b)) } := by
  induction stale generalizing s with
  | nil =>
    obtain rfl : rs = s.readAnswers := hr.symm
    simp
  | cons b stale ih =>
    rw [List.length_cons, Nat.add_right_comm, drainReady]
    simp only [drainRead, linkRead, nextReadAnswer, hr, List.map_cons, List.cons_append,
      readOutcome_data (h b (List.mem_cons_self ..)), List.tail_cons]
    rw [ih (fun c hc => h c (List.mem_cons_of_mem _ hc)) rfl]
    simp

/-- Open on a link that goes quiet is its two commands from the drained state. -/
theorem exec_open_of_normalizes {s : State} {stale : List Bytes} {ws : List WriteAnswer}
    {rs : List ReadAnswer} (h : Normalizes s stale ws rs) :
    exec .openChannel s = .next (openEnd (openCommands (drained s stale ws rs))) := by
  obtain ⟨hc, hw, hs, hr⟩ := h
  simp only [exec, execOpen, hc, ne_eq, not_true, if_false, writeAck, linkWrite, nextWriteAnswer, hw,
    writeError, List.tail_cons, deliveredPart]
  rw [hr, List.length_append, List.length_map, drainReady_stale hs _ rfl, List.length_cons, drainReady]
  simp only [drainRead, linkRead, nextReadAnswer, readOutcome, List.tail_cons, afterDrain]
  simp [drained, hc]

end Sys2Proof.Laws
end

