-- ==== Sys2Proof/Laws/PerInstr.lean ====
section
/-!
SUPPORT. One fact about the encoding of every instruction, a lemma per constructor: the item of a well-formed instruction
carries the fixed bytes of its row of spec/opcode_table.json, at the port the row belongs to.
-/

namespace Sys2Proof.Laws

open Sys2Proof

/-- The port a row of the table belongs to. -/
def rowPort : Instr → Port
  | .frameAck => .transfer
  | .frameErr => .transfer
  | .frameData _ => .transfer
  | .frameUnknown _ => .transfer
  | .reqInSetRF _ _ _ _ => .payload
  | .reqInSetProtocol _ => .payload
  | .reqInCommRF _ _ => .payload
  | .reqSwitchRF _ => .payload
  | .reqSetCommandType _ => .payload
  | .reqGetFirmwareVersion _ => .payload
  | .reqGetPDDataVersion => .payload
  | .rspInSetRF _ => .payload
  | .rspInSetProtocol _ => .payload
  | .rspInCommRF _ => .payload
  | .rspSwitchRF _ => .payload
  | .rspSetCommandType _ => .payload
  | .rspGetFirmwareVersion _ => .payload
  | .rspGetPDDataVersion _ => .payload
  | .checksum _ => .host
  | .checksumOk _ => .host
  | .toLE16 _ => .host
  | .fromLE16 _ => .host
  | .fromLE32 _ => .host
  | .encode _ => .host
  | .decode _ => .host
  | .payload _ => .host
  | .commandOpcode _ => .host
  | .buildRequest _ _ => .host
  | .checkResponse _ _ => .host
  | .sendCommand _ _ => .host
  | .statusName _ => .host
  | .commFlags _ => .host
  | .isReceiveTimeout _ => .host
  | .convertTimeout _ => .host
  | .setCommandType _ => .host
  | .switchRF _ => .host
  | .getFirmwareVersion _ => .host
  | .getPDDataVersion => .host
  | .inSetRF _ _ => .host
  | .inSetProtocol _ => .host
  | .inCommRF _ _ => .host
  | .openChannel => .host
  | .closeChannel => .host

/-- The bytes a row of the table fixes, with their places in transmission order. -/
def rowMatch : Instr → List (Nat × Byte)
  | .frameAck => [(0, 0x00), (1, 0x00), (2, 0xFF), (3, 0x00), (4, 0xFF), (5, 0x00)]
  | .frameErr => [(0, 0x00), (1, 0x00), (2, 0xFF), (3, 0xFF), (4, 0xFF)]
  | .frameData _ => [(3, 0xFF), (4, 0xFF)]
  | .frameUnknown _ => []
  | .reqInSetRF _ _ _ _ => [(0, 0xD6), (1, 0x00)]
  | .reqInSetProtocol _ => [(0, 0xD6), (1, 0x02)]
  | .reqInCommRF _ _ => [(0, 0xD6), (1, 0x04)]
  | .reqSwitchRF _ => [(0, 0xD6), (1, 0x06)]
  | .reqSetCommandType _ => [(0, 0xD6), (1, 0x2A)]
  | .reqGetFirmwareVersion _ => [(0, 0xD6), (1, 0x20)]
  | .reqGetPDDataVersion => [(0, 0xD6), (1, 0x22)]
  | .rspInSetRF _ => [(0, 0xD7), (1, 0x01)]
  | .rspInSetProtocol _ => [(0, 0xD7), (1, 0x03)]
  | .rspInCommRF _ => [(0, 0xD7), (1, 0x05)]
  | .rspSwitchRF _ => [(0, 0xD7), (1, 0x07)]
  | .rspSetCommandType _ => [(0, 0xD7), (1, 0x2B)]
  | .rspGetFirmwareVersion _ => [(0, 0xD7), (1, 0x21)]
  | .rspGetPDDataVersion _ => [(0, 0xD7), (1, 0x23)]
  | .checksum _ => [(0, 0x01)]
  | .checksumOk _ => [(0, 0x02)]
  | .toLE16 _ => [(0, 0x03)]
  | .fromLE16 _ => [(0, 0x04)]
  | .fromLE32 _ => [(0, 0x05)]
  | .encode _ => [(0, 0x10)]
  | .decode _ => [(0, 0x11)]
  | .payload _ => [(0, 0x12)]
  | .commandOpcode _ => [(0, 0x20)]
  | .buildRequest _ _ => [(0, 0x21)]
  | .checkResponse _ _ => [(0, 0x22)]
  | .sendCommand _ _ => [(0, 0x23)]
  | .statusName _ => [(0, 0x24)]
  | .commFlags _ => [(0, 0x25)]
  | .isReceiveTimeout _ => [(0, 0x26)]
  | .convertTimeout _ => [(0, 0x27)]
  | .setCommandType _ => [(0, 0x30)]
  | .switchRF _ => [(0, 0x31)]
  | .getFirmwareVersion _ => [(0, 0x32)]
  | .getPDDataVersion => [(0, 0x33)]
  | .inSetRF _ _ => [(0, 0x34)]
  | .inSetProtocol _ => [(0, 0x35)]
  | .inCommRF _ _ => [(0, 0x36)]
  | .openChannel => [(0, 0x40)]
  | .closeChannel => [(0, 0x41)]

/-- The item of `i` stands at its row's port and has the bytes its row fixes. -/
def EncodesRow.Statement (i : Instr) : Prop :=
  WellFormed i = true →
    (Sys2Proof.encode i).port = rowPort i ∧ ∀ m ∈ rowMatch i, (Sys2Proof.encode i).bytes[m.1]? = some m.2

theorem EncodesRow.frameAck : EncodesRow.Statement .frameAck := by
  intro _
  exact ⟨rfl, by simp [rowMatch, Sys2Proof.encode, Machine.ackFrame]⟩

theorem EncodesRow.frameErr : EncodesRow.Statement .frameErr := by
  intro _
  exact ⟨rfl, by simp [rowMatch, Sys2Proof.encode, Machine.errFrame]⟩

theorem EncodesRow.frameData : ∀ a, EncodesRow.Statement (.frameData a) := by
  intro a h
  simp only [WellFormed, Machine.isDataCandidate, Bool.and_eq_true, beq_iff_eq] at h
  exact ⟨rfl, by simp [rowMatch, Sys2Proof.encode, h]⟩

theorem EncodesRow.frameUnknown : ∀ a, EncodesRow.Statement (.frameUnknown a) := by
  intro a _
  exact ⟨rfl, by simp [rowMatch]⟩

theorem EncodesRow.reqInSetRF : ∀ a b c d, EncodesRow.Statement (.reqInSetRF a b c d) := by
  intro a b c d _
  exact ⟨rfl, by simp [rowMatch, Sys2Proof.encode, requestItem, Machine.reqHdr]⟩

theorem EncodesRow.reqInSetProtocol : ∀ a, EncodesRow.Statement (.reqInSetProtocol a) := by
  intro a _
  exact ⟨rfl, by simp [rowMatch, Sys2Proof.encode, requestItem, Machine.reqHdr]⟩

theorem EncodesRow.reqInCommRF : ∀ a b, EncodesRow.Statement (.reqInCommRF a b) := by
  intro a b _
  exact ⟨rfl, by simp [rowMatch, Sys2Proof.encode, requestItem, Machine.reqHdr]⟩

theorem EncodesRow.reqSwitchRF : ∀ a, EncodesRow.Statement (.reqSwitchRF a) := by
  intro a _
  exact ⟨rfl, by simp [rowMatch, Sys2Proof.encode, requestItem, Machine.reqHdr]⟩

theorem EncodesRow.reqSetCommandType : ∀ a, EncodesRow.Statement (.reqSetCommandType a) := by
  intro a _
  exact ⟨rfl, by simp [rowMatch, Sys2Proof.encode, requestItem, Machine.reqHdr]⟩

theorem EncodesRow.reqGetFirmwareVersion : ∀ a, EncodesRow.Statement (.reqGetFirmwareVersion a) := by
  intro a _
  exact ⟨rfl, by simp [rowMatch, Sys2Proof.encode, requestItem, Machine.reqHdr]⟩

theorem EncodesRow.reqGetPDDataVersion : EncodesRow.Statement .reqGetPDDataVersion := by
  intro _
  exact ⟨rfl, by simp [rowMatch, Sys2Proof.encode, requestItem, Machine.reqHdr]⟩

theorem EncodesRow.rspInSetRF : ∀ a, EncodesRow.Statement (.rspInSetRF a) := by
  intro a _
  exact ⟨rfl, by simp [rowMatch, Sys2Proof.encode, responseItem, Machine.rspHdr]⟩

theorem EncodesRow.rspInSetProtocol : ∀ a, EncodesRow.Statement (.rspInSetProtocol a) := by
  intro a _
  exact ⟨rfl, by simp [rowMatch, Sys2Proof.encode, responseItem, Machine.rspHdr]⟩

theorem EncodesRow.rspInCommRF : ∀ a, EncodesRow.Statement (.rspInCommRF a) := by
  intro a _
  exact ⟨rfl, by simp [rowMatch, Sys2Proof.encode, responseItem, Machine.rspHdr]⟩

theorem EncodesRow.rspSwitchRF : ∀ a, EncodesRow.Statement (.rspSwitchRF a) := by
  intro a _
  exact ⟨rfl, by simp [rowMatch, Sys2Proof.encode, responseItem, Machine.rspHdr]⟩

theorem EncodesRow.rspSetCommandType : ∀ a, EncodesRow.Statement (.rspSetCommandType a) := by
  intro a _
  exact ⟨rfl, by simp [rowMatch, Sys2Proof.encode, responseItem, Machine.rspHdr]⟩

theorem EncodesRow.rspGetFirmwareVersion : ∀ a, EncodesRow.Statement (.rspGetFirmwareVersion a) := by
  intro a _
  exact ⟨rfl, by simp [rowMatch, Sys2Proof.encode, responseItem, Machine.rspHdr]⟩

theorem EncodesRow.rspGetPDDataVersion : ∀ a, EncodesRow.Statement (.rspGetPDDataVersion a) := by
  intro a _
  exact ⟨rfl, by simp [rowMatch, Sys2Proof.encode, responseItem, Machine.rspHdr]⟩

theorem EncodesRow.checksum : ∀ a, EncodesRow.Statement (.checksum a) := by
  intro a _
  exact ⟨rfl, by simp [rowMatch, Sys2Proof.encode, hostItem]⟩

theorem EncodesRow.checksumOk : ∀ a, EncodesRow.Statement (.checksumOk a) := by
  intro a _
  exact ⟨rfl, by simp [rowMatch, Sys2Proof.encode, hostItem]⟩

theorem EncodesRow.toLE16 : ∀ a, EncodesRow.Statement (.toLE16 a) := by
  intro a _
  exact ⟨rfl, by simp [rowMatch, Sys2Proof.encode, hostItem]⟩

theorem EncodesRow.fromLE16 : ∀ a, EncodesRow.Statement (.fromLE16 a) := by
  intro a _
  exact ⟨rfl, by simp [rowMatch, Sys2Proof.encode, hostItem]⟩

theorem EncodesRow.fromLE32 : ∀ a, EncodesRow.Statement (.fromLE32 a) := by
  intro a _
  exact ⟨rfl, by simp [rowMatch, Sys2Proof.encode, hostItem]⟩

theorem EncodesRow.encode : ∀ a, EncodesRow.Statement (.encode a) := by
  intro a _
  exact ⟨rfl, by simp [rowMatch, Sys2Proof.encode, hostItem]⟩

theorem EncodesRow.decode : ∀ a, EncodesRow.Statement (.decode a) := by
  intro a _
  exact ⟨rfl, by simp [rowMatch, Sys2Proof.encode, hostItem]⟩

theorem EncodesRow.payload : ∀ a, EncodesRow.Statement (.payload a) := by
  intro a _
  exact ⟨rfl, by simp [rowMatch, Sys2Proof.encode, hostItem]⟩

theorem EncodesRow.commandOpcode : ∀ a, EncodesRow.Statement (.commandOpcode a) := by
  intro a _
  exact ⟨rfl, by simp [rowMatch, Sys2Proof.encode, hostItem]⟩

theorem EncodesRow.buildRequest : ∀ a b, EncodesRow.Statement (.buildRequest a b) := by
  intro a b _
  exact ⟨rfl, by simp [rowMatch, Sys2Proof.encode, hostItem]⟩

theorem EncodesRow.checkResponse : ∀ a b, EncodesRow.Statement (.checkResponse a b) := by
  intro a b _
  exact ⟨rfl, by simp [rowMatch, Sys2Proof.encode, hostItem]⟩

theorem EncodesRow.sendCommand : ∀ a b, EncodesRow.Statement (.sendCommand a b) := by
  intro a b _
  exact ⟨rfl, by simp [rowMatch, Sys2Proof.encode, hostItem]⟩

theorem EncodesRow.statusName : ∀ a, EncodesRow.Statement (.statusName a) := by
  intro a _
  exact ⟨rfl, by simp [rowMatch, Sys2Proof.encode, hostItem]⟩

theorem EncodesRow.commFlags : ∀ a, EncodesRow.Statement (.commFlags a) := by
  intro a _
  exact ⟨rfl, by simp [rowMatch, Sys2Proof.encode, hostItem]⟩

theorem EncodesRow.isReceiveTimeout : ∀ a, EncodesRow.Statement (.isReceiveTimeout a) := by
  intro a _
  exact ⟨rfl, by simp [rowMatch, Sys2Proof.encode, hostItem]⟩

theorem EncodesRow.convertTimeout : ∀ a, EncodesRow.Statement (.convertTimeout a) := by
  intro a _
  exact ⟨rfl, by simp [rowMatch, Sys2Proof.encode, hostItem]⟩

theorem EncodesRow.setCommandType : ∀ a, EncodesRow.Statement (.setCommandType a) := by
  intro a _
  exact ⟨rfl, by simp [rowMatch, Sys2Proof.encode, hostItem]⟩

theorem EncodesRow.switchRF : ∀ a, EncodesRow.Statement (.switchRF a) := by
  intro a _
  exact ⟨rfl, by simp [rowMatch, Sys2Proof.encode, hostItem]⟩

theorem EncodesRow.getFirmwareVersion : ∀ a, EncodesRow.Statement (.getFirmwareVersion a) := by
  intro a _
  exact ⟨rfl, by simp [rowMatch, Sys2Proof.encode, hostItem]⟩

theorem EncodesRow.getPDDataVersion : EncodesRow.Statement .getPDDataVersion := by
  intro _
  exact ⟨rfl, by simp [rowMatch, Sys2Proof.encode, hostItem]⟩

theorem EncodesRow.inSetRF : ∀ a b, EncodesRow.Statement (.inSetRF a b) := by
  intro a b _
  exact ⟨rfl, by simp [rowMatch, Sys2Proof.encode, hostItem]⟩

theorem EncodesRow.inSetProtocol : ∀ a, EncodesRow.Statement (.inSetProtocol a) := by
  intro a _
  exact ⟨rfl, by simp [rowMatch, Sys2Proof.encode, hostItem]⟩

theorem EncodesRow.inCommRF : ∀ a b, EncodesRow.Statement (.inCommRF a b) := by
  intro a b _
  exact ⟨rfl, by simp [rowMatch, Sys2Proof.encode, hostItem]⟩

theorem EncodesRow.openChannel : EncodesRow.Statement .openChannel := by
  intro _
  exact ⟨rfl, by simp [rowMatch, Sys2Proof.encode, hostItem]⟩

theorem EncodesRow.closeChannel : EncodesRow.Statement .closeChannel := by
  intro _
  exact ⟨rfl, by simp [rowMatch, Sys2Proof.encode, hostItem]⟩

end Sys2Proof.Laws
end

