-- ==== Sys2Proof/Tests/Slice0.lean ====
section
/-!
SUPPORT. Tests: what WellFormed refuses, the decoding of words written out from spec/30_encoding.md, one step of every
instruction with the expected result taken from spec/95_test_vectors.md (the vector is named), and for every statement
with hypotheses a state and operands that meet them.
-/

namespace Sys2Proof.Tests

open Sys2Proof Sys2Proof.Machine

/-! ### A small state -/

/-- A configuration with the flag bits that 42_dispatch.md R146 shows as candidates, and profile bytes and keys of this
file's own. -/
def cfg : ConfigRegs where
  respTimeoutMs := 500
  drainTimeoutMs := 10
  fwOptionSet := [0x3C, 0x3D, 0x80]
  bitrateTable := #v[⟨1, 2, 3, 4⟩, ⟨5, 6, 7, 8⟩, ⟨9, 10, 11, 12⟩, ⟨13, 14, 15, 16⟩, ⟨17, 18, 19, 20⟩,
    ⟨21, 22, 23, 24⟩, ⟨25, 26, 27, 28⟩, ⟨29, 30, 31, 32⟩]
  protocolKeyId := #v[0, 18, 2, 3, 4, 5, 6, 7, 8, 9, 10, 11, 12, 13, 14, 15, 16, 17, 1]
  commFlagBit := #v[0x1, 0x2, 0x4, 0x8, 0x10, 0x40, 0x100, 0x200, 0x400, 0x800]

/-- A state with a channel state and a link script. -/
def start (c : ChanState) (w : List WriteAnswer) (r : List ReadAnswer) : State where
  chanState := c
  cfg := cfg
  seq := .start
  hostQueue := []
  replies := []
  writeAnswers := w
  readAnswers := r
  trace := []

/-- An OPEN channel whose next round trip is answered with the Ack and the response payload `p`. -/
def answering (p : Bytes) : State := start .opened [.ok] [.data ackFrame, .data (dataFrame p)]

/-- An OPEN channel with a silent script: for the operations that do not use the link. -/
def idle : State := start .opened [] []

/-- What one step shows: the results, the channel state, and the frames offered to the link. -/
def seen : Host.Outcome State Fault Refusal → Option (List Reply × ChanState × List Bytes)
  | .next s => some (s.replies, s.chanState, s.trace.filterMap fun e =>
      match e with
      | .write b _ _ => some b
      | _ => none)
  | _ => none

/-- The one result of an operation that leaves the channel OPEN and offers the frames `f`. -/
def gives (r : Reply) (f : List Bytes) : Option (List Reply × ChanState × List Bytes) :=
  some ([r], .opened, f)

/-! ### WellFormed refuses (one ill-formed term for each check) -/

theorem test_wf_frameData_is_not_ack : WellFormed (.frameData [0, 0, 0xFF, 0, 0xFF, 0]) = false := by decide
theorem test_wf_frameData_is_not_err : WellFormed (.frameData [0, 0, 0xFF, 0xFF, 0xFF]) = false := by decide
theorem test_wf_frameData_is_candidate : WellFormed (.frameData [0, 0, 0xFF, 0xFF, 0]) = false := by decide
theorem test_wf_frameUnknown_is_not_ack :
    WellFormed (.frameUnknown [0, 0, 0xFF, 0, 0xFF, 0]) = false := by decide
theorem test_wf_frameUnknown_is_not_err : WellFormed (.frameUnknown [0, 0, 0xFF, 0xFF, 0xFF]) = false := by
  decide
theorem test_wf_frameUnknown_is_no_candidate : WellFormed (.frameUnknown [1, 0, 0xFF, 0xFF, 0xFF]) = false := by
  decide
theorem test_wf_pairs_ascend : WellFormed (.reqInSetProtocol [(2, 0), (1, 0)]) = false := by decide
theorem test_wf_pairs_distinct : WellFormed (.reqInSetProtocol [(2, 0), (2, 1)]) = false := by decide
theorem test_wf_pairs_at_most_19 :
    WellFormed (.reqInSetProtocol ((List.range 20).map fun k => (BitVec.ofNat 8 k, 0))) = false := by decide
theorem test_wf_reqInCommRF_fits : ∀ d : Bytes, d.length = 65532 →
    WellFormed (.reqInCommRF 0 d) = false := by
  intro d h
  simp [WellFormed, fitsFrame, maxPayloadLen, h]
theorem test_wf_responses_fit : ∀ r : Bytes, r.length = 65534 →
    WellFormed (.rspInSetRF r) = false ∧ WellFormed (.rspInSetProtocol r) = false ∧
    WellFormed (.rspInCommRF r) = false ∧ WellFormed (.rspSwitchRF r) = false ∧
    WellFormed (.rspSetCommandType r) = false ∧ WellFormed (.rspGetFirmwareVersion r) = false ∧
    WellFormed (.rspGetPDDataVersion r) = false := by
  intro r h
  simp [WellFormed, fitsFrame, maxPayloadLen, h]
theorem test_wf_host_bytes : ∀ b : Bytes, b.length = 2 ^ 32 →
    WellFormed (.checksum b) = false ∧ WellFormed (.checksumOk b) = false ∧
    WellFormed (.fromLE16 b) = false ∧ WellFormed (.fromLE32 b) = false ∧
    WellFormed (.encode b) = false ∧ WellFormed (.decode b) = false ∧
    WellFormed (.payload ⟨b, .data⟩) = false ∧ WellFormed (.buildRequest 0 b) = false ∧
    WellFormed (.checkResponse 0 b) = false ∧ WellFormed (.sendCommand 0 b) = false ∧
    WellFormed (.inCommRF b 0) = false := by
  intro b h
  simp [WellFormed, hostBytes, h]
theorem test_wf_frame_kind_is_decodes : WellFormed (.payload ⟨[0, 0, 0xFF, 0xFF, 0xFF], .data⟩) = false := by
  decide
theorem test_wf_frame_is_decodable : WellFormed (.payload ⟨[0, 0, 0xFF, 0xFF, 0xFF, 0], .data⟩) = false := by
  decide

/-! ### Decoding: words written out from the spec's encodings -/

/-- R60, R62, R61 (V20), R78 (V21). -/
theorem test_decode_wire_frames :
    decodeItem ⟨.transfer, [0x00, 0x00, 0xFF, 0x00, 0xFF, 0x00]⟩ = .ok .frameAck ∧
    decodeItem ⟨.transfer, [0x00, 0x00, 0xFF, 0xFF, 0xFF]⟩ = .ok .frameErr ∧
    decodeItem ⟨.transfer, [0x00, 0x00, 0xFF, 0xFF, 0xFF, 0x03, 0x00, 0xFD, 0xD7, 0x2B, 0x00, 0xFE, 0x00]⟩ =
      .ok (.frameData [0x00, 0x00, 0xFF, 0xFF, 0xFF, 0x03, 0x00, 0xFD, 0xD7, 0x2B, 0x00, 0xFE, 0x00]) ∧
    decodeItem ⟨.transfer, [0xAA, 0xBB, 0xCC, 0xDD, 0xEE]⟩ =
      .ok (.frameUnknown [0xAA, 0xBB, 0xCC, 0xDD, 0xEE]) := by decide

/-- R64, R66, R68. -/
theorem test_decode_request_payloads :
    decodeItem ⟨.payload, [0xD6, 0x00, 0x0A, 0x0B, 0x0C, 0x0D]⟩ = .ok (.reqInSetRF 0x0A 0x0B 0x0C 0x0D) ∧
    decodeItem ⟨.payload, [0xD6, 0x02, 0x00, 0x1C, 0x05, 0x01]⟩ =
      .ok (.reqInSetProtocol [(0x00, 0x1C), (0x05, 0x01)]) ∧
    decodeItem ⟨.payload, [0xD6, 0x04, 0x64, 0x01, 0x05, 0xFF]⟩ = .ok (.reqInCommRF 0x0164 [0x05, 0xFF]) ∧
    decodeItem ⟨.payload, [0xD6, 0x06, 0x01]⟩ = .ok (.reqSwitchRF true) ∧
    decodeItem ⟨.payload, [0xD6, 0x2A, 0x01]⟩ = .ok (.reqSetCommandType 0x01) ∧
    decodeItem ⟨.payload, [0xD6, 0x20]⟩ = .ok (.reqGetFirmwareVersion none) ∧
    decodeItem ⟨.payload, [0xD6, 0x20, 0x80]⟩ = .ok (.reqGetFirmwareVersion (some 0x80)) ∧
    decodeItem ⟨.payload, [0xD6, 0x22]⟩ = .ok .reqGetPDDataVersion := by decide

/-- R65, R66, R69. -/
theorem test_decode_response_payloads :
    decodeItem ⟨.payload, [0xD7, 0x01, 0x04]⟩ = .ok (.rspInSetRF [0x04]) ∧
    decodeItem ⟨.payload, [0xD7, 0x03, 0x00]⟩ = .ok (.rspInSetProtocol [0x00]) ∧
    decodeItem ⟨.payload, [0xD7, 0x05, 0x80, 0x00, 0x00, 0x00]⟩ = .ok (.rspInCommRF [0x80, 0, 0, 0]) ∧
    decodeItem ⟨.payload, [0xD7, 0x07, 0x05]⟩ = .ok (.rspSwitchRF [0x05]) ∧
    decodeItem ⟨.payload, [0xD7, 0x2B, 0x00]⟩ = .ok (.rspSetCommandType [0x00]) ∧
    decodeItem ⟨.payload, [0xD7, 0x21, 0x11, 0x01]⟩ = .ok (.rspGetFirmwareVersion [0x11, 0x01]) ∧
    decodeItem ⟨.payload, [0xD7, 0x23, 0x00, 0x01]⟩ = .ok (.rspGetPDDataVersion [0x00, 0x01]) := by decide

/-- R80, R81: selectors 01 to 12. -/
theorem test_decode_codec_and_frame_selectors :
    decodeItem ⟨.host, [0x01, 0x02, 0x00, 0x00, 0x00, 0x01, 0x18]⟩ = .ok (.checksum [0x01, 0x18]) ∧
    decodeItem ⟨.host, [0x02, 0x01, 0x00, 0x00, 0x00, 0x07]⟩ = .ok (.checksumOk [0x07]) ∧
    decodeItem ⟨.host, [0x03, 0x2C, 0x01]⟩ = .ok (.toLE16 300) ∧
    decodeItem ⟨.host, [0x04, 0x02, 0x00, 0x00, 0x00, 0x11, 0x01]⟩ = .ok (.fromLE16 [0x11, 0x01]) ∧
    decodeItem ⟨.host, [0x05, 0x01, 0x00, 0x00, 0x00, 0x11]⟩ = .ok (.fromLE32 [0x11]) ∧
    decodeItem ⟨.host, [0x10, 0x02, 0x00, 0x00, 0x00, 0xD6, 0x20]⟩ = .ok (.encode [0xD6, 0x20]) ∧
    decodeItem ⟨.host, [0x11, 0x01, 0x00, 0x00, 0x00, 0x00]⟩ = .ok (.decode [0x00]) ∧
    decodeItem ⟨.host, [0x12, 0x05, 0x00, 0x00, 0x00, 0x00, 0x00, 0xFF, 0xFF, 0xFF]⟩ =
      .ok (.payload ⟨[0x00, 0x00, 0xFF, 0xFF, 0xFF], .err⟩) := by decide

/-- R80, R81: selectors 20 to 27. -/
theorem test_decode_dispatch_selectors :
    decodeItem ⟨.host, [0x20, 0x04]⟩ = .ok (.commandOpcode 4) ∧
    decodeItem ⟨.host, [0x21, 0x04, 0x01, 0x00, 0x00, 0x00, 0x01]⟩ = .ok (.buildRequest 4 [0x01]) ∧
    decodeItem ⟨.host, [0x22, 0x04, 0x02, 0x00, 0x00, 0x00, 0xD7, 0x2B]⟩ = .ok (.checkResponse 4 [0xD7, 0x2B]) ∧
    decodeItem ⟨.host, [0x23, 0x05, 0x00, 0x00, 0x00, 0x00]⟩ = .ok (.sendCommand 5 []) ∧
    decodeItem ⟨.host, [0x24, 0x07]⟩ = .ok (.statusName 7) ∧
    decodeItem ⟨.host, [0x25, 0x80, 0x00, 0x00, 0x80]⟩ = .ok (.commFlags 0x80000080) ∧
    decodeItem ⟨.host, [0x26, 0x80, 0x00, 0x00, 0x00]⟩ = .ok (.isReceiveTimeout 0x80) ∧
    decodeItem ⟨.host, [0x27, 0xFB, 0xFF, 0xFF, 0xFF]⟩ = .ok (.convertTimeout (-5)) := by decide

/-- R80, R81: selectors 30 to 41. -/
theorem test_decode_wrapper_and_channel_selectors :
    decodeItem ⟨.host, [0x30, 0x01]⟩ = .ok (.setCommandType 1) ∧
    decodeItem ⟨.host, [0x31, 0x00]⟩ = .ok (.switchRF false) ∧
    decodeItem ⟨.host, [0x32, 0x01, 0x80]⟩ = .ok (.getFirmwareVersion (some 0x80)) ∧
    decodeItem ⟨.host, [0x33]⟩ = .ok .getPDDataVersion ∧
    decodeItem ⟨.host, [0x34, 0x00, 0x01, 0x01]⟩ = .ok (.inSetRF 0 (some 1)) ∧
    decodeItem ⟨.host, 0x35 :: 0x01 :: 0x1C :: List.replicate 36 0⟩ = .ok (.inSetProtocol
      ⟨some 0x1C, none, none, none, none, none, none, none, none, none, none, none, none, none, none,
        none, none, none, none⟩) ∧
    decodeItem ⟨.host, [0x36, 0x01, 0x00, 0x00, 0x00, 0xAA, 0x0A, 0x00, 0x00, 0x00]⟩ = .ok (.inCommRF [0xAA] 10) ∧
    decodeItem ⟨.host, [0x40]⟩ = .ok .openChannel ∧
    decodeItem ⟨.host, [0x41]⟩ = .ok .closeChannel := by decide

/-- R80, R213, R76: what the decoder rejects. -/
theorem test_decode_rejects :
    decodeItem ⟨.host, [0x00]⟩ = .error (.illegalSelector 0x00) ∧
    decodeItem ⟨.host, [0x42]⟩ = .error (.illegalSelector 0x42) ∧
    decodeItem ⟨.host, [0x40, 0x00]⟩ = .error .malformedOperands ∧
    decodeItem ⟨.host, []⟩ = .error .malformedOperands ∧
    decodeItem ⟨.payload, [0xD6, 0x08]⟩ = .error .unknownPayload ∧
    decodeItem ⟨.payload, [0xD6, 0x02, 0x01]⟩ = .error .malformedOperands := by decide

/-! ### One step: the Codec and the Frame unit -/

/-- V1. -/
theorem test_checksum : seen (exec (.checksum [0x01, 0x18]) idle) = gives (.value (.u8 0xE7)) [] := by decide
/-- V2: FF FF, whose sum passes 256. -/
theorem test_checksum_wraps : checksum [0xFF, 0xFF] = 0x02 := by decide
/-- V3. -/
theorem test_checksumOk : seen (exec (.checksumOk [0xD7, 0x2B, 0x00, 0xFE]) idle) =
    gives (.value (.bool true)) [] := by decide
/-- V3. -/
theorem test_checksumOk_rejects : seen (exec (.checksumOk [0x02, 0x00, 0xFF]) idle) =
    gives (.value (.bool false)) [] := by decide
/-- V4. -/
theorem test_toLE16 : seen (exec (.toLE16 300) idle) = gives (.value (.bytes [0x2C, 0x01])) [] := by decide
/-- V4. -/
theorem test_fromLE16 : seen (exec (.fromLE16 [0x11, 0x01]) idle) = gives (.value (.u16 0x0111)) [] := by decide
/-- V4. -/
theorem test_fromLE16_shape : seen (exec (.fromLE16 [0x11, 0x01, 0x00]) idle) =
    gives (.error (.resultShape 3)) [] := by decide
/-- V4. -/
theorem test_fromLE32 : seen (exec (.fromLE32 [0x01, 0x00, 0x00, 0x80]) idle) =
    gives (.value (.u32 0x80000001)) [] := by decide
/-- V4. -/
theorem test_fromLE32_shape : seen (exec (.fromLE32 [0x00, 0x00, 0x00]) idle) =
    gives (.error (.resultShape 3)) [] := by decide
/-- V10. -/
theorem test_encode : seen (exec (.encode [0xD6, 0x20]) idle) = gives (.value (.bytes
    [0x00, 0x00, 0xFF, 0xFF, 0xFF, 0x02, 0x00, 0xFE, 0xD6, 0x20, 0x0A, 0x00])) [] := by decide
/-- V11. -/
theorem test_encode_empty : seen (exec (.encode []) idle) =
    gives (.value (.bytes [0x00, 0x00, 0xFF, 0xFF, 0xFF, 0x00, 0x00, 0x00, 0x00, 0x00])) [] := by decide
/-- V21: the errors of decode, in the order of its checks. -/
theorem test_decode_errors :
    decodeFrame [0x01, 0x00, 0xFF, 0xFF, 0xFF] = .error (.truncated 5) ∧
    decodeFrame [0x00, 0x00, 0xFF, 0xFF, 0xFF, 0x00] = .error (.truncated 6) ∧
    decodeFrame [0x00, 0x00, 0xFF, 0xFF, 0xFF, 0xFF, 0xFF, 0x02] = .error (.truncated 8) ∧
    decodeFrame [0x00, 0x00, 0xFF, 0xFF, 0xFF, 0x03, 0x00, 0xFD, 0xD7, 0x2B] = .error (.truncated 10) ∧
    decodeFrame [0x00, 0x00, 0xFF, 0xFF, 0xFF, 0x03, 0x00, 0xFE, 0xD7, 0x2B, 0x00, 0xFE, 0x00] =
      .error (.checksumMismatch .length) ∧
    decodeFrame [0x00, 0x00, 0xFF, 0xFF, 0xFF, 0x03, 0x00, 0xFD, 0xD7, 0x2B, 0x00, 0xFF, 0x00] =
      .error (.checksumMismatch .payload) := by decide
/-- V21: bytes 0 to 2, the trailer and what follows are not checked. -/
theorem test_decode_ignores :
    decodeFrame [0x12, 0x34, 0x56, 0xFF, 0xFF, 0x03, 0x00, 0xFD, 0xD7, 0x2B, 0x00, 0xFE, 0x55, 0xAA] =
      .ok ⟨[0x12, 0x34, 0x56, 0xFF, 0xFF, 0x03, 0x00, 0xFD, 0xD7, 0x2B, 0x00, 0xFE, 0x55, 0xAA], .data⟩ ∧
    decodeFrame [0x00, 0x00, 0xFF, 0xFF, 0xFF, 0x00, 0x00, 0x00, 0x00] =
      .ok ⟨[0x00, 0x00, 0xFF, 0xFF, 0xFF, 0x00, 0x00, 0x00, 0x00], .data⟩ := by decide
/-- V23. -/
theorem test_payload : seen (exec (.payload
    ⟨[0x00, 0x00, 0xFF, 0xFF, 0xFF, 0x04, 0x00, 0xFC, 0xD7, 0x21, 0x11, 0x01, 0xF6, 0x00], .data⟩) idle) =
    gives (.value (.bytes [0xD7, 0x21, 0x11, 0x01])) [] := by decide
/-- V23. -/
theorem test_payload_of_ack : seen (exec (.payload ⟨[0, 0, 0xFF, 0, 0xFF, 0], .ack⟩) idle) =
    gives (.error (.notDataFrame .ack)) [] := by decide
/-- V21: the four classes of a transfer. -/
theorem test_wire_frames :
    seen (exec .frameAck idle) = gives (.value (.frame ⟨[0, 0, 0xFF, 0, 0xFF, 0], .ack⟩)) [] ∧
    seen (exec .frameErr idle) = gives (.value (.frame ⟨[0, 0, 0xFF, 0xFF, 0xFF], .err⟩)) [] ∧
    seen (exec (.frameUnknown [0, 0, 0xFF, 0xFF]) idle) =
      gives (.value (.frame ⟨[0, 0, 0xFF, 0xFF], .unknown⟩)) [] ∧
    seen (exec (.frameData [0, 0, 0xFF, 0xFF, 0xFF, 0, 0, 0, 0, 0]) idle) =
      gives (.value (.frame ⟨[0, 0, 0xFF, 0xFF, 0xFF, 0, 0, 0, 0, 0], .data⟩)) [] :=
  ⟨by decide, by decide, by decide, by decide⟩

/-! ### One step: lookup and interpretation -/

/-- V9. -/
theorem test_commandOpcode : seen (exec (.commandOpcode 4) idle) = gives (.value (.u8 0x2A)) [] := by decide
/-- V9. -/
theorem test_commandOpcode_rejects : seen (exec (.commandOpcode 7) idle) =
    gives (.error (.parameterError 7)) [] := by decide
/-- V9. -/
theorem test_buildRequest : seen (exec (.buildRequest 2 [0x64, 0x00, 0x05]) idle) =
    gives (.value (.bytes [0xD6, 0x04, 0x64, 0x00, 0x05])) [] := by decide
/-- V9: args of 65534 bytes. -/
theorem test_buildRequest_limit : ∀ args : Bytes, args.length = 65534 →
    buildRequest 2 args = .error (.lengthRange 65536) := by
  intro args h
  unfold buildRequest
  rw [show Machine.commandOpcode 2 = .ok 0x04 by decide, h]
  rfl
/-- V9. -/
theorem test_checkResponse : seen (exec (.checkResponse 5 [0xD7, 0x21, 0x11, 0x01]) idle) =
    gives (.value (.bytes [0x11, 0x01])) [] := by decide
/-- V9. -/
theorem test_checkResponse_none : seen (exec (.checkResponse 4 [0xD7, 0x2A, 0x00]) idle) = gives .noResult [] := by
  decide
/-- V8. -/
theorem test_statusName : seen (exec (.statusName 0x05) idle) = gives (.value (.status .pwdError)) [] := by decide
/-- V8. -/
theorem test_statusName_unknown : seen (exec (.statusName 0x08) idle) =
    gives (.value (.status (.unknown 0x08))) [] := by decide
/-- V7, with the candidate bits. -/
theorem test_commFlags : seen (exec (.commFlags 0x80000001) idle) =
    gives (.value (.flags [.protocol, .receiveLength] 0)) [] := by decide
/-- V7, with the candidate bits: bit 5 is no flag. -/
theorem test_commFlags_residue : seen (exec (.commFlags 0x00000020) idle) =
    gives (.value (.flags [] 0x20)) [] := by decide
/-- V5. -/
theorem test_isReceiveTimeout : seen (exec (.isReceiveTimeout 0x80000080) idle) =
    gives (.value (.bool true)) [] := by decide
/-- V5. -/
theorem test_isReceiveTimeout_not : seen (exec (.isReceiveTimeout 0x80000000) idle) =
    gives (.value (.bool false)) [] := by decide
/-- V6. -/
theorem test_convertTimeout : convertTimeout 0 = 0 ∧ convertTimeout 1 = 0x000A ∧ convertTimeout 6553 = 0xFFFA ∧
    convertTimeout 6554 = 0xFFFF := by decide
/-- V6: the most negative and the largest operand. -/
theorem test_convertTimeout_ends : convertTimeout (BitVec.intMin 32) = 0 ∧
    convertTimeout (BitVec.intMax 32) = 0xFFFF := by decide

/-! ### One step: the round trip and the typed wrappers -/

/-- V40. -/
theorem test_sendCommand : seen (exec (.sendCommand 5 []) (answering [0xD7, 0x21, 0x11, 0x01])) =
    gives (.value (.bytes [0x11, 0x01]))
      [[0x00, 0x00, 0xFF, 0xFF, 0xFF, 0x02, 0x00, 0xFE, 0xD6, 0x20, 0x0A, 0x00]] := by decide
/-- V44 case e: a bad payload checksum latches FAILED. -/
theorem test_sendCommand_fatal : seen (exec (.sendCommand 4 [0x01]) (start .opened [.ok] [.data ackFrame,
    .data [0x00, 0x00, 0xFF, 0xFF, 0xFF, 0x03, 0x00, 0xFD, 0xD7, 0x2B, 0x00, 0xFF, 0x00]])) =
    some ([.error (.checksumMismatch .payload)], .failed,
      [[0x00, 0x00, 0xFF, 0xFF, 0xFF, 0x03, 0x00, 0xFD, 0xD6, 0x2A, 0x01, 0xFF, 0x00]]) := by decide
/-- V41. -/
theorem test_setCommandType : seen (exec (.setCommandType 1) (answering [0xD7, 0x2B, 0x00])) =
    gives (.value .nothing)
      [[0x00, 0x00, 0xFF, 0xFF, 0xFF, 0x03, 0x00, 0xFD, 0xD6, 0x2A, 0x01, 0xFF, 0x00]] := by decide
/-- V44 case b: an Err frame for the Ack is no result, and one read is made. -/
theorem test_setCommandType_err : exec (.setCommandType 1) (start .opened [.ok] [.data errFrame, .timeout]) =
    .next { start .opened [] [.timeout] with
      replies := [.noResult]
      trace := [.write (dataFrame [0xD6, 0x2A, 0x01]) .ok (dataFrame [0xD6, 0x2A, 0x01]),
        .read 500 (.data [0x00, 0x00, 0xFF, 0xFF, 0xFF])] } := rfl
/-- V42. -/
theorem test_switchRF : seen (exec (.switchRF true) (answering [0xD7, 0x07, 0x00])) =
    gives (.value .nothing)
      [[0x00, 0x00, 0xFF, 0xFF, 0xFF, 0x03, 0x00, 0xFD, 0xD6, 0x06, 0x01, 0x23, 0x00]] := by decide
/-- V48. -/
theorem test_switchRF_status : seen (exec (.switchRF false) (answering [0xD7, 0x07, 0x05])) =
    gives (.error (.statusError 0x05 .pwdError))
      [[0x00, 0x00, 0xFF, 0xFF, 0xFF, 0x03, 0x00, 0xFD, 0xD6, 0x06, 0x00, 0x24, 0x00]] := by decide
/-- V46. -/
theorem test_getFirmwareVersion : seen (exec (.getFirmwareVersion (some 0x80))
    (answering [0xD7, 0x21, 0x11, 0x01])) = gives (.value (.u16 0x0111))
      [[0x00, 0x00, 0xFF, 0xFF, 0xFF, 0x03, 0x00, 0xFD, 0xD6, 0x20, 0x80, 0x8A, 0x00]] := by decide
/-- V46. -/
theorem test_getFirmwareVersion_option : seen (exec (.getFirmwareVersion (some 0x60)) idle) =
    gives (.error (.parameterError 0x60)) [] := by decide
/-- V45. -/
theorem test_getPDDataVersion : seen (exec .getPDDataVersion (answering [0xD7, 0x23, 0x00, 0x01, 0xFF])) =
    gives (.value (.u16 0x0100))
      [[0x00, 0x00, 0xFF, 0xFF, 0xFF, 0x02, 0x00, 0xFE, 0xD6, 0x22, 0x08, 0x00]] := by decide
/-- V44 case g: a read timeout is fatal. -/
theorem test_getPDDataVersion_timeout : seen (exec .getPDDataVersion (start .opened [.ok] [.timeout])) =
    some ([.error (.ioError .timeout)], .failed,
      [[0x00, 0x00, 0xFF, 0xFF, 0xFF, 0x02, 0x00, 0xFE, 0xD6, 0x22, 0x08, 0x00]]) := by decide
/-- V49: the send profile's first two bytes, the receive profile's last two. -/
theorem test_inSetRF : seen (exec (.inSetRF 0 (some 1)) (answering [0xD7, 0x01, 0x00])) =
    gives (.value .nothing) [dataFrame [0xD6, 0x00, 0x01, 0x02, 0x07, 0x08]] := by decide
/-- V49. -/
theorem test_inSetRF_profile : seen (exec (.inSetRF 8 none) idle) =
    gives (.error (.parameterError 8)) [] := by decide
/-- V49, and the ascending key order of R73: guard_time has key 1 here, add_crc key 18. -/
theorem test_inSetProtocol : seen (exec (.inSetProtocol
    ⟨some 0x1C, some 7, none, none, none, none, none, none, none, none, none, none, none, none, none,
      none, none, none, some 9⟩) (answering [0xD7, 0x03, 0x00])) =
    gives (.value .nothing) [dataFrame [0xD6, 0x02, 0x00, 0x1C, 0x01, 0x09, 0x12, 0x07]] := by decide
/-- V43: the status word 0x80. -/
theorem test_inCommRF : seen (exec (.inCommRF [0x05, 0xFF, 0xFF, 0x01, 0x00] 10)
    (answering [0xD7, 0x05, 0x80, 0x00, 0x00, 0x00])) = gives (.error (.communicationError 0x80))
      [[0x00, 0x00, 0xFF, 0xFF, 0xFF, 0x09, 0x00, 0xF7, 0xD6, 0x04, 0x64, 0x00, 0x05, 0xFF, 0xFF, 0x01, 0x00,
        0xBE, 0x00]] := by decide
/-- V47: the data from offset 5. -/
theorem test_inCommRF_data : seen (exec (.inCommRF [] 0)
    (answering [0xD7, 0x05, 0x00, 0x00, 0x00, 0x00, 0x00, 0xAA, 0xBB])) = gives (.value (.bytes [0xAA, 0xBB]))
      [[0x00, 0x00, 0xFF, 0xFF, 0xFF, 0x04, 0x00, 0xFC, 0xD6, 0x04, 0x00, 0x00, 0x26, 0x00]] := by decide
/-- V12, V49: the request payloads with status commands. -/
theorem test_status_requests :
    seen (exec (.reqSetCommandType 1) (answering [0xD7, 0x2B, 0x00])) =
      gives (.value .nothing) [dataFrame [0xD6, 0x2A, 0x01]] ∧
    seen (exec (.reqSwitchRF true) (answering [0xD7, 0x07, 0x00])) =
      gives (.value .nothing) [dataFrame [0xD6, 0x06, 0x01]] ∧
    seen (exec (.reqInSetRF 1 2 3 4) (answering [0xD7, 0x01, 0x04])) =
      gives (.error (.statusError 0x04 .temperatureError)) [dataFrame [0xD6, 0x00, 0x01, 0x02, 0x03, 0x04]] ∧
    seen (exec (.reqInSetProtocol [(0x00, 0x1C)]) (answering [0xD7, 0x03, 0x00])) =
      gives (.value .nothing) [dataFrame [0xD6, 0x02, 0x00, 0x1C]] :=
  ⟨by decide, by decide, by decide, by decide⟩
/-- V12: the request payloads of InCommRF and of the version commands. -/
theorem test_data_requests :
    seen (exec (.reqInCommRF 0x0064 [0x05]) (answering [0xD7, 0x05, 0x00, 0x00, 0x00, 0x00])) =
      gives (.error (.resultShape 4)) [dataFrame [0xD6, 0x04, 0x64, 0x00, 0x05]] ∧
    seen (exec (.reqGetFirmwareVersion none) (answering [0xD7, 0x21, 0x11, 0x01])) =
      gives (.value (.u16 0x0111)) [dataFrame [0xD6, 0x20]] ∧
    seen (exec .reqGetPDDataVersion (answering [0xD7, 0x23, 0x00])) =
      gives (.error (.resultShape 1)) [dataFrame [0xD6, 0x22]] :=
  ⟨by decide, by decide, by decide⟩
/-- V45, V47, V48: the response payloads. -/
theorem test_responses :
    seen (exec (.rspSetCommandType [0x01]) idle) = gives (.error (.statusError 0x01 .parameterError)) [] ∧
    seen (exec (.rspSwitchRF [0x00]) idle) = gives (.value .nothing) [] ∧
    seen (exec (.rspInSetRF [0x04]) idle) = gives (.error (.statusError 0x04 .temperatureError)) [] ∧
    seen (exec (.rspInSetProtocol []) idle) = gives (.error (.resultShape 0)) [] ∧
    seen (exec (.rspInCommRF [0x01, 0x00, 0x00, 0x80]) idle) =
      gives (.error (.communicationError 0x80000001)) [] ∧
    seen (exec (.rspGetFirmwareVersion [0x11, 0x01]) idle) = gives (.value (.u16 0x0111)) [] ∧
    seen (exec (.rspGetPDDataVersion [0x00]) idle) = gives (.error (.resultShape 1)) [] :=
  ⟨by decide, by decide, by decide, by decide, by decide, by decide, by decide⟩

/-! ### One step: the Channel unit and the machine -/

/-- The link of program P2: one stale transfer, quiet, and both commands answered. -/
def freshLink : State := start .unopened [.ok, .ok, .ok]
  [.data (dataFrame [0xD7, 0x07, 0x00]), .timeout, .data ackFrame, .data (dataFrame [0xD7, 0x2B, 0x00]),
    .data ackFrame, .data (dataFrame [0xD7, 0x07, 0x00])]

/-- Program P2. -/
theorem test_open : seen (exec .openChannel freshLink) = gives (.value .nothing)
    [[0x00, 0x00, 0xFF, 0x00, 0xFF, 0x00],
     [0x00, 0x00, 0xFF, 0xFF, 0xFF, 0x03, 0x00, 0xFD, 0xD6, 0x2A, 0x01, 0xFF, 0x00],
     [0x00, 0x00, 0xFF, 0xFF, 0xFF, 0x03, 0x00, 0xFD, 0xD6, 0x06, 0x00, 0x24, 0x00]] := by decide
/-- V60: an Err frame for SetCommandType's Ack is ProtocolMismatch. -/
theorem test_open_mismatch : seen (exec .openChannel (start .unopened [.ok, .ok] [.timeout, .data errFrame])) =
    some ([.error .protocolMismatch], .failed,
      [[0x00, 0x00, 0xFF, 0x00, 0xFF, 0x00], dataFrame [0xD6, 0x2A, 0x01]]) := by decide
/-- V61: close from FAILED. -/
theorem test_close : seen (exec .closeChannel (start .failed [.ok, .ok]
    [.data ackFrame, .data (dataFrame [0xD7, 0x07, 0x00])])) =
    some ([.value .nothing], .closed, [dataFrame [0xD6, 0x06, 0x00], ackFrame]) := by decide
/-- V61, W9: close from CLOSED. -/
theorem test_close_closed : seen (exec .closeChannel (start .closed [] [])) =
    some ([.value .nothing], .closed, []) := by decide
/-- R241: reset leaves no link activity, and an operation runs as the first one after it. -/
theorem test_step_after_reset : seen (step (State.reset.withFetchWord 8 0x03)) =
    some ([.value (.bytes [0x00, 0x00])], .unopened, []) := by decide
/-- The numbering of the table's words: an ACK transfer, a payload header, a selector. -/
theorem test_table_words : decodeTableWord 48 0x0000FF00FF00 = some .frameAck ∧
    decodeTableWord 40 0x0000FFFFFF = some .frameErr ∧
    decodeTableWord 16 0xD622 = some .reqGetPDDataVersion ∧ decodeTableWord 8 0x41 = some .closeChannel := by
  decide
/-- R213. -/
theorem test_step_illegal_selector : seen (step (issueFirst ⟨.host, [0xFF]⟩ idle)) =
    gives (.error (.illegalOp 0xFF)) [] := by decide

/-! ### Witnesses: a concrete state and operands for the hypotheses of every statement that has some -/

theorem witness_ChecksumIsTheUniqueByteThatMakesTheSumZero :
    ((([0x01, 0x18] : Bytes).map BitVec.toNat).sum + (0xE7 : Byte).toNat) % 256 = 0 := by decide

theorem witness_FromLE16ReadsTwoBytesLittleEndian :
    ([0x11] : Bytes).length ≠ 2 ∧ ([0x11, 0x01, 0x00] : Bytes).length ≠ 2 := by decide

theorem witness_FromLE32ReadsFourBytesLittleEndian :
    ([0, 0, 0] : Bytes).length ≠ 4 ∧ ([0, 0, 0, 0, 0] : Bytes).length ≠ 4 := by decide

theorem witness_EncodeLaysOutADataFrame :
    (List.replicate 65535 (0xFF : Byte)).length ≤ 65535 ∧ (List.replicate 65536 (0xFF : Byte)).length > 65535 := by
  rw [List.length_replicate, List.length_replicate]
  decide

theorem witness_FrameRoundTripReturnsThePayload :
    ([] : Bytes).length ≤ 65535 ∧ (List.replicate 65535 (0xFF : Byte)).length ≤ 65535 := by
  rw [List.length_replicate]
  decide

theorem witness_PayloadIsTheSliceAtOffsetEight :
    decodeFrame [0x00, 0x00, 0xFF, 0xFF, 0xFF, 0x00, 0x00, 0x00, 0x00] =
      .ok ⟨[0x00, 0x00, 0xFF, 0xFF, 0xFF, 0x00, 0x00, 0x00, 0x00], .data⟩ ∧
    (⟨[], .unknown⟩ : Frame).kind ≠ .data := by decide

theorem witness_WireFramesGetTheirClass :
    WellFormed (.frameUnknown []) = true ∧ ([0x12, 0x34, 0x56] : Bytes).length = 3 ∧
    (List.replicate 65535 (0xFF : Byte)).length ≤ 65535 := by
  rw [List.length_replicate]
  decide

theorem witness_CheckResponseStripsAMatchingHeader :
    (7 : Byte).toNat > 6 ∧ Machine.commandOpcode 4 = .ok 0x2A ∧
    ([0xD7, 0x2B, 0x00] : Bytes) = 0xD7 :: (0x2A + 1) :: [0x00] ∧
    ¬ ∃ results, ([0xD7, 0x2A, 0x00] : Bytes) = 0xD7 :: (0x2A + 1) :: results :=
  ⟨by decide, by decide, by decide, by rintro ⟨r, h⟩; simp at h⟩

/-- The flag bits of `cfg` are legal. -/
theorem cfg_flagBits : FlagBitsLegal cfg.commFlagBit.toList := by
  refine ⟨by decide, ?_⟩
  have e : cfg.commFlagBit.toList = [0, 1, 2, 3, 4, 6, 8, 9, 10, 11].map fun k => BitVec.twoPow 32 k := by
    decide
  rw [e]
  intro b hb
  obtain ⟨k, hk, rfl⟩ := List.mem_map.1 hb
  have h : k < 32 ∧ k ≠ 7 ∧ k ≠ 31 := by
    revert k
    decide
  exact ⟨k, h.1, h.2.1, h.2.2, rfl⟩

theorem witness_NumberedFlagsDoNotDependOnTheConfiguration :
    FlagBitsLegal idle.cfg.commFlagBit.toList := cfg_flagBits

theorem witness_LinkOperationsAreGated :
    (isRoundTrip (.switchRF false) = true ∧ (start .failed [] []).chanState ≠ .opened) ∧
    (Instr.openChannel = .openChannel ∧ idle.chanState ≠ .unopened) := by decide

theorem witness_SendCommandRejectsArgumentsBeforeTheLink :
    idle.chanState = .opened ∧ (7 : Byte).toNat > 6 ∧ (6 : Byte).toNat ≤ 6 ∧
    (List.replicate 65534 (0 : Byte)).length > 65533 := by
  rw [List.length_replicate]
  decide

theorem witness_SendCommandReturnsTheResults :
    Machine.commandOpcode 5 = .ok 0x20 ∧ ([] : Bytes).length ≤ 65533 ∧
    Responds (answering [0xD7, 0x21, 0x11, 0x01]) (0xD7 :: (0x20 + 1) :: [0x11, 0x01])
      (dataFrame [0xD7, 0x21, 0x11, 0x01]) [] [] :=
  ⟨by decide, by decide, rfl, rfl, rfl, by decide, by decide⟩

/-- Every round trip sends something under the configuration of this file: the hypothesis of the statements over `Sends`
is met by each of them, at the bounds of their arguments. -/
theorem witness_Sends :
    Sends cfg (.sendCommand 6 (List.replicate 65533 0)) 0x22 (List.replicate 65533 0) ∧
    Sends cfg (.setCommandType 0xFF) 0x2A [0xFF] ∧ Sends cfg (.switchRF true) 0x06 [0x01] ∧
    Sends cfg (.getFirmwareVersion none) 0x20 [] ∧ Sends cfg (.getFirmwareVersion (some 0x80)) 0x20 [0x80] ∧
    Sends cfg .getPDDataVersion 0x22 [] ∧ Sends cfg (.inSetRF 7 (some 0)) 0x00 [29, 30, 3, 4] ∧
    (∀ params, Sends cfg (.inSetProtocol params) 0x02 (protocolArgs cfg params)) ∧
    Sends cfg (.inCommRF (List.replicate 65531 0) 10) 0x04 (toLE16 100 ++ List.replicate 65531 0) ∧
    Sends cfg (.reqSetCommandType 0) 0x2A [0] ∧ Sends cfg (.reqSwitchRF false) 0x06 [0x00] ∧
    Sends cfg (.reqGetFirmwareVersion (some 0x60)) 0x20 [0x60] ∧ Sends cfg .reqGetPDDataVersion 0x22 [] ∧
    Sends cfg (.reqInSetRF 1 2 3 4) 0x00 [1, 2, 3, 4] ∧
    Sends cfg (.reqInSetProtocol [(0, 0x1C)]) 0x02 [0, 0x1C] ∧
    Sends cfg (.reqInCommRF 1 (List.replicate 65531 0)) 0x04 (toLE16 1 ++ List.replicate 65531 0) :=
  ⟨.sendCommand rfl (by rw [List.length_replicate]), .setCommandType _, .switchRF true,
    .getFirmwareVersion fun _ h => (by cases h), .getFirmwareVersion fun _ h => (by cases h; decide),
    .getPDDataVersion, .inSetRF (t := ⟨29, 30, 31, 32⟩) (v := ⟨1, 2, 3, 4⟩) (by decide) (by decide),
    .inSetProtocol, .inCommRF 10 (by rw [List.length_replicate]), .reqSetCommandType 0, .reqSwitchRF false,
    .reqGetFirmwareVersion _, .reqGetPDDataVersion, .reqInSetRF .., .reqInSetProtocol (by decide),
    .reqInCommRF 1 (by rw [List.length_replicate])⟩

theorem witness_HeaderMismatchIsNoResult :
    Sends (answering [0xD7, 0x07, 0x00]).cfg (.setCommandType 0x01) 0x2A [0x01] ∧
    Responds (answering [0xD7, 0x07, 0x00]) [0xD7, 0x07, 0x00] (dataFrame [0xD7, 0x07, 0x00]) [] [] ∧
    ¬ ∃ results, ([0xD7, 0x07, 0x00] : Bytes) = 0xD7 :: (0x2A + 1) :: results :=
  ⟨.setCommandType _, ⟨rfl, rfl, rfl, by decide, by decide⟩, by rintro ⟨r, h⟩; simp at h⟩

theorem witness_UnexpectedFrameKindsAreNoResult :
    (start .opened [.ok] [.data errFrame]).chanState = .opened ∧
    Sends (start .opened [.ok] [.data errFrame]).cfg (.inCommRF [0x05] 0) 0x04 [0, 0, 0x05] ∧
    (start .opened [.ok] [.data errFrame]).writeAnswers = [.ok] ∧
    errFrame ≠ [] ∧ decodeFrame errFrame = .ok ⟨errFrame, .err⟩ ∧ FrameKind.err ≠ .ack ∧
    (start .opened [.ok] [.data errFrame]).readAnswers = [.data errFrame] ∧
    ackFrame ≠ [] ∧ decodeFrame ackFrame = .ok ⟨ackFrame, .ack⟩ ∧ FrameKind.ack ≠ .data ∧
    (start .opened [.ok] [.data ackFrame, .data ackFrame]).readAnswers =
      [.data ackFrame, .data ackFrame] :=
  ⟨rfl, .inCommRF 0 (by decide), by decide⟩

theorem witness_FailedWriteLatchesFailed :
    (start .opened [.shortWrite] []).chanState = .opened ∧
    Sends (start .opened [.shortWrite] []).cfg .getPDDataVersion 0x22 [] ∧
    (start .opened [.shortWrite] []).writeAnswers = [.shortWrite] ∧
    (start .opened [.other] []).writeAnswers = [.other] :=
  ⟨rfl, .getPDDataVersion, by decide⟩

/-- A Data frame whose payload checksum is off by one (program P5). -/
def corrupted : Bytes :=
  [0x00, 0x00, 0xFF, 0xFF, 0xFF, 0x04, 0x00, 0xFC, 0xD7, 0x21, 0x11, 0x01, 0xF7, 0x00]

theorem witness_FirstReadFailureLatchesFailed :
    (start .opened [.ok] [.timeout]).chanState = .opened ∧
    Sends (start .opened [.ok] [.timeout]).cfg (.switchRF false) 0x06 [0x00] ∧ (start .opened [.ok] [.timeout]).writeAnswers = [.ok] ∧
    (start .opened [.ok] [.timeout]).readAnswers = [.timeout] ∧
    (start .opened [.ok] [.data []]).readAnswers = [.data []] ∧
    (start .opened [.ok] [.invalidRead]).readAnswers = [.invalidRead] ∧
    (start .opened [.ok] [.other]).readAnswers = [.other] ∧
    (start .opened [.ok] [.data corrupted]).readAnswers = [.data corrupted] ∧
    decodeFrame corrupted = .error (.checksumMismatch .payload) :=
  ⟨rfl, .switchRF false, by decide⟩

theorem witness_SecondReadFailureLatchesFailed :
    (start .opened [.ok] [.data ackFrame, .timeout]).chanState = .opened ∧
    Sends (start .opened [.ok] [.data ackFrame, .timeout]).cfg (.getFirmwareVersion none) 0x20 [] ∧
    (start .opened [.ok] [.data ackFrame, .timeout]).writeAnswers = [.ok] ∧
    (start .opened [.ok] [.data ackFrame, .timeout]).readAnswers = [.data ackFrame, .timeout] ∧
    (start .opened [.ok] [.data ackFrame, .data []]).readAnswers = [.data ackFrame, .data []] ∧
    (start .opened [.ok] [.data ackFrame, .invalidRead]).readAnswers = [.data ackFrame, .invalidRead] ∧
    (start .opened [.ok] [.data ackFrame, .other]).readAnswers = [.data ackFrame, .other] ∧
    (start .opened [.ok] [.data ackFrame, .data corrupted]).readAnswers =
      [.data ackFrame, .data corrupted] ∧
    decodeFrame corrupted = .error (.checksumMismatch .payload) :=
  ⟨rfl, .getFirmwareVersion fun _ h => (by cases h), by decide⟩

theorem witness_RoundTripsMakeOneWriteAndUpToTwoReads :
    isRoundTrip (.sendCommand 5 []) = true ∧ isRoundTrip .reqGetPDDataVersion = true := by decide

theorem witness_OnlyFatalErrorsLatchFailed :
    isRoundTrip (.sendCommand 5 []) = true ∧ idle.chanState = .opened ∧
    (∃ e, (Reply.error (.truncated 6)) = .error e ∧ e.isFatal = true) ∧
    ¬ ∃ e, Reply.noResult = .error e ∧ e.isFatal = true :=
  ⟨by decide, by decide, ⟨_, rfl, rfl⟩, by rintro ⟨e, h, -⟩; cases h⟩

theorem witness_SetCommandTypeRoundTrip :
    Responds (answering [0xD7, 0x2B, 0x00]) (0xD7 :: 0x2B :: [0x00]) (dataFrame [0xD7, 0x2B, 0x00]) [] [] :=
  ⟨rfl, rfl, rfl, by decide, by decide⟩

theorem witness_SwitchRFRoundTrip :
    Responds (answering [0xD7, 0x07, 0x05]) (0xD7 :: 0x07 :: [0x05]) (dataFrame [0xD7, 0x07, 0x05]) [] [] :=
  ⟨rfl, rfl, rfl, by decide, by decide⟩

theorem witness_GetFirmwareVersionRoundTrip :
    Responds (answering [0xD7, 0x21, 0x11, 0x01]) (0xD7 :: 0x21 :: [0x11, 0x01])
      (dataFrame [0xD7, 0x21, 0x11, 0x01]) [] [] ∧
    (0x80 : Byte) ∈ (answering [0xD7, 0x21, 0x11, 0x01]).cfg.fwOptionSet :=
  ⟨⟨rfl, rfl, rfl, by decide, by decide⟩, by decide⟩

theorem witness_GetPDDataVersionRoundTrip :
    Responds (answering [0xD7, 0x23, 0x00, 0x01]) (0xD7 :: 0x23 :: [0x00, 0x01])
      (dataFrame [0xD7, 0x23, 0x00, 0x01]) [] [] :=
  ⟨rfl, rfl, rfl, by decide, by decide⟩

theorem witness_InSetRFRoundTrip :
    (answering [0xD7, 0x01, 0x00]).cfg.bitrateTable[(7 : Byte).toNat]? = some ⟨29, 30, 31, 32⟩ ∧
    (answering [0xD7, 0x01, 0x00]).cfg.bitrateTable[((some 0 : Option Byte).getD 7).toNat]? =
      some ⟨1, 2, 3, 4⟩ ∧
    Responds (answering [0xD7, 0x01, 0x00]) (0xD7 :: 0x01 :: [0x00]) (dataFrame [0xD7, 0x01, 0x00]) [] [] :=
  ⟨by decide, by decide, rfl, rfl, rfl, by decide, by decide⟩

theorem witness_WrappersRejectArgumentsBeforeTheLink :
    idle.chanState = .opened ∧ (0x60 : Byte) ∉ idle.cfg.fwOptionSet ∧ (8 : Byte).toNat > 7 ∧
    (7 : Byte).toNat ≤ 7 ∧ (List.replicate 65532 (0 : Byte)).length > 65531 ∧
    isRoundTrip (.reqInCommRF 0 []) = true := by
  rw [List.length_replicate]
  decide

theorem witness_InSetProtocolSendsPresentFieldsInKeyOrder :
    Responds (answering [0xD7, 0x03, 0x00]) (0xD7 :: 0x03 :: [0x00]) (dataFrame [0xD7, 0x03, 0x00]) [] [] ∧
    2 * (List.replicate 32766 ((0, 0) : Byte × Byte)).length ≤ 65533 :=
  ⟨⟨rfl, rfl, rfl, by decide, by decide⟩, by rw [List.length_replicate]; decide⟩

theorem witness_InCommRFRoundTrip :
    (List.replicate 65531 (0 : Byte)).length ≤ 65531 ∧
    Responds (answering [0xD7, 0x05, 0x80, 0x00, 0x00, 0x00]) (0xD7 :: 0x05 :: [0x80, 0x00, 0x00, 0x00])
      (dataFrame [0xD7, 0x05, 0x80, 0x00, 0x00, 0x00]) [] [] ∧
    (0xFFFF : U16).toNat = (0xFF : Byte).toNat + 256 * (0xFF : Byte).toNat ∧
    (0x0001 : U16).toNat = (0x01 : Byte).toNat + 256 * (0x00 : Byte).toNat :=
  ⟨by rw [List.length_replicate], ⟨rfl, rfl, rfl, by decide, by decide⟩, by decide⟩

theorem witness_OpenNormalizesTheLinkAndOpens :
    freshLink.chanState = .unopened ∧ freshLink.writeAnswers = [.ok, .ok, .ok] ∧
    (∀ b ∈ [dataFrame [0xD7, 0x07, 0x00]], b ≠ []) ∧
    freshLink.readAnswers = [dataFrame [0xD7, 0x07, 0x00]].map .data ++
      [.timeout, .data ackFrame, .data (dataFrame [0xD7, 0x2B, 0x00]), .data ackFrame,
        .data (dataFrame [0xD7, 0x07, 0x00])] ∧
    decodeFrame (dataFrame [0xD7, 0x2B, 0x00]) = .ok ⟨dataFrame [0xD7, 0x2B, 0x00], .data⟩ ∧
    payloadOf ⟨dataFrame [0xD7, 0x2B, 0x00], .data⟩ = .ok (0xD7 :: 0x2B :: 0 :: []) ∧
    decodeFrame (dataFrame [0xD7, 0x07, 0x00]) = .ok ⟨dataFrame [0xD7, 0x07, 0x00], .data⟩ ∧
    payloadOf ⟨dataFrame [0xD7, 0x07, 0x00], .data⟩ = .ok (0xD7 :: 0x07 :: 0 :: []) := by decide

theorem witness_OpenEndsOpenFailedOrStillDraining :
    (start .unopened [] []).chanState = .unopened ∧ State.reset.chanState = .unopened := by decide

/-- An UNOPENED channel whose link accepts every write, delivers one stale transfer, goes quiet, and then gives `r`. -/
def opening (r : List ReadAnswer) : State :=
  start .unopened [.ok, .ok, .ok] (.data errFrame :: .timeout :: r)

/-- `opening` meets the hypothesis of the statements about open. -/
theorem opening_normalizes (r : List ReadAnswer) : Normalizes (opening r) [errFrame] [.ok, .ok] r :=
  ⟨rfl, rfl, by decide, rfl⟩

/-- The three ways to a protocol mismatch, for SetCommandType. -/
theorem witness_Mismatched :
    Mismatched 0x2A [.data errFrame] ∧ Mismatched 0x2A [.data ackFrame, .data ackFrame] ∧
    Mismatched 0x2A [.data ackFrame, .data (dataFrame [0xD7, 0x2A, 0x00])] :=
  ⟨.notAck (k := .err) (by decide) (by decide) (by decide),
    .notData (k := .ack) (by decide) (by decide) (by decide),
    .header (p := [0xD7, 0x2A, 0x00]) (by decide) (by decide) (by rintro ⟨r, h⟩; simp at h)⟩

theorem witness_OpenFailsAtItsFirstFailingStep :
    ((start .unopened [.shortWrite] []).chanState = .unopened ∧
      (start .unopened [.shortWrite] []).writeAnswers = [.shortWrite]) ∧
    ((start .unopened [.ok] [.data errFrame, .other]).chanState = .unopened ∧
      (start .unopened [.ok] [.data errFrame, .other]).writeAnswers = [.ok] ∧
      (∀ b ∈ [errFrame], b ≠ []) ∧
      (start .unopened [.ok] [.data errFrame, .other]).readAnswers = [errFrame].map .data ++ .other :: []) ∧
    (Normalizes (opening [.data ackFrame, .data (dataFrame [0xD7, 0x2B, 0x01])]) [errFrame] [.ok, .ok]
        [.data ackFrame, .data (dataFrame [0xD7, 0x2B, 0x01])] ∧
      decodeFrame (dataFrame [0xD7, 0x2B, 0x01]) = .ok ⟨dataFrame [0xD7, 0x2B, 0x01], .data⟩ ∧
      payloadOf ⟨dataFrame [0xD7, 0x2B, 0x01], .data⟩ = .ok (0xD7 :: 0x2B :: 0x01 :: []) ∧ (0x01 : Byte) ≠ 0) ∧
    (Normalizes (opening [.data errFrame]) [errFrame] [.ok, .ok] ([.data errFrame] ++ []) ∧
      Mismatched 0x2A [.data errFrame]) ∧
    (Normalizes (opening [.data ackFrame, .data (dataFrame [0xD7, 0x2B, 0x00]), .data ackFrame,
          .data (dataFrame [0xD7, 0x07, 0x04])]) [errFrame] [.ok, .ok]
        [.data ackFrame, .data (dataFrame [0xD7, 0x2B, 0x00]), .data ackFrame,
          .data (dataFrame [0xD7, 0x07, 0x04])] ∧
      decodeFrame (dataFrame [0xD7, 0x2B, 0x00]) = .ok ⟨dataFrame [0xD7, 0x2B, 0x00], .data⟩ ∧
      payloadOf ⟨dataFrame [0xD7, 0x2B, 0x00], .data⟩ = .ok (0xD7 :: 0x2B :: 0x00 :: []) ∧
      decodeFrame (dataFrame [0xD7, 0x07, 0x04]) = .ok ⟨dataFrame [0xD7, 0x07, 0x04], .data⟩ ∧
      payloadOf ⟨dataFrame [0xD7, 0x07, 0x04], .data⟩ = .ok (0xD7 :: 0x07 :: 0x04 :: []) ∧ (0x04 : Byte) ≠ 0) ∧
    (Normalizes (opening [.data ackFrame, .data (dataFrame [0xD7, 0x2B, 0x00]), .data errFrame]) [errFrame]
        [.ok, .ok] (.data ackFrame :: .data (dataFrame [0xD7, 0x2B, 0x00]) :: ([.data errFrame] ++ [])) ∧
      Mismatched 0x06 [.data errFrame]) :=
  ⟨by decide, by decide, ⟨opening_normalizes _, by decide⟩, ⟨opening_normalizes _, witness_Mismatched.1⟩,
    ⟨opening_normalizes _, by decide⟩,
    ⟨opening_normalizes _, .notAck (k := .err) (by decide) (by decide) (by decide)⟩⟩

/-- An open in its drain, with the given reads to come. -/
def draining (r : List ReadAnswer) : State := { start .unopened [] r with seq := .draining }

theorem witness_DrainGoesOnWhileTheLinkDelivers :
    (draining [.data [1], .data [2], .timeout]).seq = .draining ∧
    (∀ b ∈ ([[1], [2]] : List Bytes), b ≠ []) ∧
    (draining [.data [1], .data [2], .timeout]).readAnswers =
      ([[1], [2]] : List Bytes).map .data ++ [.timeout] := by decide

/-- Both ways into the commands of open: in the step it began in, and in a later one. -/
theorem witness_OpenEndsAsItsTwoCommandsDo :
    Normalizes (opening []) [errFrame] [.ok, .ok] [] ∧
    (draining [.timeout]).seq = .draining ∧ ∃ d,
      linkRead (draining [.timeout]).cfg.drainTimeoutMs (draining [.timeout]) = (.timeout, d) :=
  ⟨opening_normalizes _, rfl, _, rfl⟩

theorem witness_DrainReadFailureFailsOpen :
    (draining [.invalidRead]).seq = .draining ∧ (draining [.invalidRead]).readAnswers = [.invalidRead] ∧
    (draining [.other]).readAnswers = [.other] := by decide

theorem witness_CloseAlwaysReleasesTheLink : (start .failed [] []).chanState ≠ .closed := by decide

theorem witness_CloseIsIdempotent : (start .closed [] []).chanState = .closed := by decide

/-- An OPEN channel whose link script is empty, with the items `q` issued. -/
def issued (q : List Item) : State := { idle with hostQueue := q }

theorem witness_StepRunsTheDecodedInstruction :
    (issued [⟨.host, [0x20, 0x04]⟩]).seq = .start ∧
    (issued [⟨.host, [0x20, 0x04]⟩]).hostQueue = ⟨.host, [0x20, 0x04]⟩ :: [] ∧
    decodeItem ⟨.host, [0x20, 0x04]⟩ = .ok (.commandOpcode 4) ∧
    (issued []).hostQueue = [] := by decide

theorem witness_UndefinedSelectorsEndWithIllegalOp :
    (0x42 : Byte) ∉ ([0x01, 0x02, 0x03, 0x04, 0x05, 0x10, 0x11, 0x12, 0x20, 0x21, 0x22, 0x23, 0x24, 0x25, 0x26,
      0x27, 0x30, 0x31, 0x32, 0x33, 0x34, 0x35, 0x36, 0x40, 0x41] : Bytes) ∧
    (issued [⟨.host, [0x42]⟩]).seq = .start ∧
    (issued [⟨.host, [0x42]⟩]).hostQueue = ⟨.host, 0x42 :: []⟩ :: [] := by decide

theorem witness_DecodeOfEncodeIsTheInstruction :
    WellFormed (.reqInSetProtocol [(0x00, 0x1C), (0x05, 0x01)]) = true ∧
    WellFormed (.payload ⟨[0x00, 0x00, 0xFF, 0xFF, 0xFF], .err⟩) = true := by decide

theorem witness_DecodedInstructionsAreWellFormed :
    decodeItem ⟨.payload, [0xD6, 0x22]⟩ = .ok .reqGetPDDataVersion := by decide

/-- A state that is not the reset state and meets the invariant: `close` is issued on an OPEN channel. -/
theorem witness_EveryStepKeepsTheInvariant :
    Inv { start .opened [.ok, .ok] [.timeout] with hostQueue := [⟨.host, [0x41]⟩] } ∧
    ∃ t, step { start .opened [.ok, .ok] [.timeout] with hostQueue := [⟨.host, [0x41]⟩] } = .next t ∧
      t.chanState = .closed :=
  ⟨⟨by decide, cfg_flagBits, by decide, fun e he => (by cases he), by decide⟩, _, rfl, rfl⟩

theorem witness_ConfigurationIsImmutable : ∃ t, step (issued [⟨.host, [0x20, 0x04]⟩]) = .next t ∧
    t.replies = [.value (.u8 0x2A)] := ⟨_, rfl, rfl⟩

theorem witness_OnlyTableTransitionsOfChanState :
    ((issued [⟨.host, [0x41]⟩]).seq = .draining → (issued [⟨.host, [0x41]⟩]).chanState = .unopened) ∧
    ∃ t, step (issued [⟨.host, [0x41]⟩]) = .next t ∧ t.chanState = .closed :=
  ⟨by decide, _, rfl, rfl⟩

theorem witness_PureOperationsOnlyReply :
    isPure (.commFlags 1) = true ∧ idle.cfg = cfg := ⟨by decide, rfl⟩

theorem witness_NothingReachesTheLinkAfterClose :
    ({ start .closed [] [] with hostQueue := [⟨.host, [0x40]⟩] } : State).chanState = .closed ∧
    ({ start .closed [] [] with hostQueue := [⟨.host, [0x40]⟩] } : State).seq = .start ∧
    ∃ t, Host.Core.run Sys2Proof.core 1 { start .closed [] [] with hostQueue := [⟨.host, [0x40]⟩] } = .next t ∧
      t.replies = [.error (.channelState .closed)] :=
  ⟨by decide, by decide, _, rfl, rfl⟩

end Sys2Proof.Tests
end

section
/-!
PROOFS. The Data frame that encode lays out (spec/30_encoding.md R61, spec/41_frame.md R110): its bytes, its two
protected sums, and what the operation answers on either side of the length bound.
-/

namespace Sys2Proof.Proofs.Encoding

open Sys2Proof Sys2Proof.Machine Sys2Proof.Laws

/-- A range and its checksum byte sum to 0 mod 256 (R100). -/
theorem byteSum_add_checksum (x : Bytes) : (byteSum x + (checksum x).toNat) % 256 = 0 := by
  rw [checksum_toNat]
  omega

/-- The length field holds every length up to the bound exactly (R61). -/
theorem lengthBytes_parts {n : Nat} (h : n ≤ 65535) :
    ∃ lo hi : Byte, lengthBytes n = [lo, hi] ∧ lo.toNat + 256 * hi.toNat = n := by
  obtain ⟨hbytes, hvalue⟩ := toLE16_parts (BitVec.ofNat 16 n)
  have hn : (BitVec.ofNat 16 n).toNat = n := Nat.mod_eq_of_lt (by omega)
  exact ⟨_, _, hbytes, by rw [← hvalue, hn]⟩

/-- The bytes of a Data frame, once those of its length field are known (R61). -/
theorem dataFrame_of_lengthBytes {p : Bytes} {lo hi : Byte} (h : lengthBytes p.length = [lo, hi]) :
    dataFrame p =
      [0x00, 0x00, 0xFF, 0xFF, 0xFF, lo, hi, checksum [lo, hi]] ++ p ++ [checksum p, 0x00] := by
  simp [dataFrame, h, preamble, trailer]

theorem encodeFrame_lengthRange {p : Bytes} (h : p.length > 65535) :
    encodeFrame p = .error (.lengthRange p.length) :=
  if_pos h

theorem exec_encode (p : Bytes) (s : State) :
    exec (.encode p) s = .next (finishPure ((encodeFrame p).map .bytes) s) := rfl

/-- A payload within the bound is answered with its Data frame (R110). -/
theorem exec_encode_ok {p : Bytes} (h : p.length ≤ 65535) (s : State) :
    exec (.encode p) s = .next (reply (.value (.bytes (dataFrame p))) s) := by
  rw [exec_encode, encodeFrame_ok h, map_ok, finishPure_ok]

/-- A longer payload is answered with LengthRange (decision D8). -/
theorem exec_encode_lengthRange {p : Bytes} (h : p.length > 65535) (s : State) :
    exec (.encode p) s = .next (reply (.error (.lengthRange p.length)) s) := by
  rw [exec_encode, encodeFrame_lengthRange h, map_error, finishPure_error]

/-- Settles O6: the two bytes of the length field give the layout, and each protected sum is the checksum's own. -/
theorem encodeLaysOutADataFrame : Obligations.EncodeLaysOutADataFrame := by
  unfold Obligations.EncodeLaysOutADataFrame
  refine fun p s => ⟨fun hle => ?_, fun hgt => exec_encode_lengthRange hgt s⟩
  obtain ⟨lo, hi, hbytes, hlength⟩ := lengthBytes_parts hle
  have hlengthSum : (lo.toNat + hi.toNat + (checksum [lo, hi]).toNat) % 256 = 0 := by
    simpa using byteSum_add_checksum [lo, hi]
  refine ⟨lo, hi, checksum [lo, hi], checksum p, ?_, hlength, hlengthSum, byteSum_add_checksum p⟩
  rw [exec_encode_ok hle, dataFrame_of_lengthBytes hbytes, reply]

end Sys2Proof.Proofs.Encoding
end

section
/-!
PROOFS. The Codec's operations as the host sees them (spec/40_codec.md R100, R102 to R104): the checksum byte, and the
little-endian conversions in both directions.
-/

namespace Sys2Proof.Proofs.Codec

open Sys2Proof Sys2Proof.Machine Sys2Proof.Laws Sys2Proof.Proofs.Encoding

/-! ### What each operation replies -/

theorem exec_checksum (x : Bytes) (s : State) :
    exec (.checksum x) s = .next (reply (.value (.u8 (checksum x))) s) := rfl

theorem exec_toLE16 (v : U16) (s : State) :
    exec (.toLE16 v) s = .next (reply (.value (.bytes (toLE16 v))) s) := rfl

theorem exec_fromLE16 (b : Bytes) (s : State) :
    exec (.fromLE16 b) s = .next (finishPure ((fromLE16 b).map .u16) s) := rfl

theorem exec_fromLE32 (b : Bytes) (s : State) :
    exec (.fromLE32 b) s = .next (finishPure ((fromLE32 b).map .u32) s) := rfl

/-! ### Sequences of another length (decision D12) -/

theorem fromLE16_resultShape {b : Bytes} (h : b.length ≠ 2) :
    fromLE16 b = .error (.resultShape b.length) := by
  unfold fromLE16
  split
  · exact absurd rfl h
  · rfl

theorem fromLE32_resultShape {b : Bytes} (h : b.length ≠ 4) :
    fromLE32 b = .error (.resultShape b.length) := by
  unfold fromLE32
  split
  · exact absurd rfl h
  · rfl

/-! ### The obligations -/

/-- Settles O1: the range and its checksum byte sum to 0 mod 256, and only one byte does that. -/
theorem checksumIsTheUniqueByteThatMakesTheSumZero :
    Obligations.ChecksumIsTheUniqueByteThatMakesTheSumZero := by
  unfold Obligations.ChecksumIsTheUniqueByteThatMakesTheSumZero
  intro x s
  have hzero : (byteSum x + (checksum x).toNat) % 256 = 0 := byteSum_add_checksum x
  exact ⟨checksum x, exec_checksum x s, hzero, fun d hd => byte_eq_of_sum (byteSum x) d _ hd hzero⟩

/-- Settles O3: the two bytes of the value are its low and its high part. -/
theorem toLE16ReturnsLowByteThenHighByte : Obligations.ToLE16ReturnsLowByteThenHighByte := by
  unfold Obligations.ToLE16ReturnsLowByteThenHighByte
  intro v s
  obtain ⟨hbytes, hvalue⟩ := toLE16_parts v
  refine ⟨_, _, ?_, hvalue⟩
  rw [exec_toLE16, hbytes, reply]

/-- Settles O4: two bytes give the word with the second one on top; any other length is the error. -/
theorem fromLE16ReadsTwoBytesLittleEndian : Obligations.FromLE16ReadsTwoBytesLittleEndian := by
  unfold Obligations.FromLE16ReadsTwoBytesLittleEndian
  refine ⟨fun b0 b1 s => ⟨b1 ++ b0, ?_, append_toNat b1 b0⟩, fun b s hlength => ?_⟩
  · rw [exec_fromLE16, fromLE16_pair, map_ok, finishPure_ok, reply]
  · rw [exec_fromLE16, fromLE16_resultShape hlength, map_error, finishPure_error, reply]

/-- Settles O5: each byte put below the ones after it multiplies their value by 256; any other length is the error. -/
theorem fromLE32ReadsFourBytesLittleEndian : Obligations.FromLE32ReadsFourBytesLittleEndian := by
  unfold Obligations.FromLE32ReadsFourBytesLittleEndian
  refine ⟨fun b0 b1 b2 b3 s => ⟨b3 ++ b2 ++ b1 ++ b0, ?_, ?_⟩, fun b s hlength => ?_⟩
  · rw [exec_fromLE32, fromLE32_four, map_ok, finishPure_ok, reply]
  · rw [append_toNat, append_toNat, append_toNat]
    omega
  · rw [exec_fromLE32, fromLE32_resultShape hlength, map_error, finishPure_error, reply]

end Sys2Proof.Proofs.Codec
end

section
/-!
PROOFS. The Frame unit's decoder and payload extractor (spec/41_frame.md R111, R113, R116, R214): decode as one chain of
checks on the raw bytes, what makes a transfer a valid Data frame, and the round trip through the encoder.
-/

namespace Sys2Proof.Proofs.Frame

open Sys2Proof Sys2Proof.Machine Sys2Proof.Laws Sys2Proof.Proofs.Encoding

/-! ### What a pure operation replies -/

/-- The reply that stands for the result of a pure operation. -/
def pureReply : Except Error Value → Reply
  | .ok v => .value v
  | .error e => .error e

theorem finishPure_eq_reply (r : Except Error Value) (s : State) :
    finishPure r s = reply (pureReply r) s := by
  cases r <;> rfl

theorem exec_decode (raw : Bytes) (s : State) :
    exec (.decode raw) s = .next (reply (pureReply ((decodeFrame raw).map .frame)) s) :=
  congrArg Host.Outcome.next (finishPure_eq_reply _ s)

theorem exec_payload (f : Frame) (s : State) :
    exec (.payload f) s = .next (reply (pureReply ((payloadOf f).map .bytes)) s) :=
  congrArg Host.Outcome.next (finishPure_eq_reply _ s)

/-! ### The bytes that decode looks at -/

@[simp] theorem slice_self (b : Bytes) (a : Nat) : slice b a a = [] := by
  simp [slice]

/-- A slice that starts inside the sequence starts with the byte there. -/
theorem slice_eq_cons {b : Bytes} {a c : Nat} (hac : a < c) (hb : a < b.length) :
    slice b a c = b.getD a 0 :: slice b (a + 1) c := by
  have hcount : c - a = (c - (a + 1)) + 1 := by omega
  rw [slice, slice, List.drop_eq_getElem_cons hb, hcount, List.take_succ_cons, List.getD_eq_getElem _ _ hb]

/-- The Data test needs no length of its own: a byte at index 4 is there only in 5 bytes or more (R111). -/
theorem isDataCandidate_iff (raw : Bytes) :
    isDataCandidate raw = true ↔ raw[3]? = some 0xFF ∧ raw[4]? = some 0xFF := by
  have hlength : raw[4]? = some 0xFF → 5 ≤ raw.length := fun h => (List.getElem?_eq_some_iff.1 h).1
  simp only [isDataCandidate, Bool.and_eq_true, decide_eq_true_eq, beq_iff_eq]
  exact ⟨fun ⟨⟨_, h3⟩, h4⟩ => ⟨h3, h4⟩, fun ⟨h3, h4⟩ => ⟨⟨hlength h4, h3⟩, h4⟩⟩

/-- With the header present, the length field is its two bytes, low byte first (R61). -/
theorem lengthField_eq {raw : Bytes} (h : 8 ≤ raw.length) :
    lengthField raw = (raw.getD 5 0).toNat + 256 * (raw.getD 6 0).toNat := by
  have hbytes : slice raw 5 7 = [raw.getD 5 0, raw.getD 6 0] := by
    rw [slice_eq_cons (by omega) (by omega), slice_eq_cons (by omega) (by omega), slice_self]
  rw [lengthField, hbytes, fromLE16_pair]
  exact append_toNat _ _

theorem not_checksumOk_iff (r : Bytes) : (!checksumOk r) = true ↔ byteSum r % 256 ≠ 0 := by
  simp [checksumOk]

/-- The sum that the length field's checksum protects (R61, D5). -/
theorem byteSum_lengthRange {raw : Bytes} (h : 8 ≤ raw.length) :
    byteSum (slice raw 5 8) = (raw.getD 5 0).toNat + (raw.getD 6 0).toNat + (raw.getD 7 0).toNat := by
  rw [slice_eq_cons (by omega) (by omega), slice_eq_cons (by omega) (by omega),
    slice_eq_cons (by omega) (by omega), slice_self]
  simp only [byteSum_cons, byteSum_nil, Nat.reduceAdd]
  omega

/-- The sum that the payload's checksum protects: `n` payload bytes and the checksum byte after them (R61). -/
theorem byteSum_payloadRange (raw : Bytes) (n : Nat) :
    byteSum (slice raw 8 (9 + n)) = (((raw.drop 8).take (n + 1)).map BitVec.toNat).sum := by
  rw [slice, byteSum, show 9 + n - 8 = n + 1 by omega]

/-! ### decode as checks on the raw bytes -/

/-- decode, each check on the transfer's own bytes, in the order of R214. -/
theorem decodeFrame_checks (raw : Bytes) : decodeFrame raw =
    if raw = [0x00, 0x00, 0xFF, 0x00, 0xFF, 0x00] then .ok ⟨raw, .ack⟩
    else if raw = [0x00, 0x00, 0xFF, 0xFF, 0xFF] then .ok ⟨raw, .err⟩
    else if ¬ (raw[3]? = some 0xFF ∧ raw[4]? = some 0xFF) then .ok ⟨raw, .unknown⟩
    else if raw.length < 8 then .error (.truncated raw.length)
    else if ((raw.getD 5 0).toNat + (raw.getD 6 0).toNat + (raw.getD 7 0).toNat) % 256 ≠ 0 then
      .error (.checksumMismatch .length)
    else if raw.length < 9 + ((raw.getD 5 0).toNat + 256 * (raw.getD 6 0).toNat) then
      .error (.truncated raw.length)
    else if (((raw.drop 8).take ((raw.getD 5 0).toNat + 256 * (raw.getD 6 0).toNat + 1)).map
        BitVec.toNat).sum % 256 ≠ 0 then
      .error (.checksumMismatch .payload)
    else .ok ⟨raw, .data⟩ := by
  rw [ite_not]
  refine if_congr Iff.rfl rfl (if_congr Iff.rfl rfl (if_congr (isDataCandidate_iff raw) ?_ rfl))
  rcases Nat.lt_or_ge raw.length 8 with hshort | hheader
  · rw [if_pos hshort, if_pos hshort]
  · rw [if_neg (Nat.not_lt.2 hheader), if_neg (Nat.not_lt.2 hheader), ← byteSum_lengthRange hheader,
      ← lengthField_eq hheader, ← byteSum_payloadRange]
    exact if_congr (not_checksumOk_iff _) rfl (if_congr Iff.rfl rfl (if_congr (not_checksumOk_iff _) rfl rfl))

/-- What a transfer must hold to be a Data frame without error: the marker, the whole header, the announced bytes, and
both protected sums (R61, R111). -/
structure ValidData (raw : Bytes) : Prop where
  marker : raw[3]? = some 0xFF ∧ raw[4]? = some 0xFF
  header : 8 ≤ raw.length
  lengthSum : ((raw.getD 5 0).toNat + (raw.getD 6 0).toNat + (raw.getD 7 0).toNat) % 256 = 0
  complete : 9 + ((raw.getD 5 0).toNat + 256 * (raw.getD 6 0).toNat) ≤ raw.length
  payloadSum : (((raw.drop 8).take ((raw.getD 5 0).toNat + 256 * (raw.getD 6 0).toNat + 1)).map
    BitVec.toNat).sum % 256 = 0

theorem decodeFrame_of_validData {raw : Bytes} (h : ValidData raw) : decodeFrame raw = .ok ⟨raw, .data⟩ := by
  have hack : raw ≠ [0x00, 0x00, 0xFF, 0x00, 0xFF, 0x00] := fun e => absurd h.header (by rw [e]; decide)
  have herr : raw ≠ [0x00, 0x00, 0xFF, 0xFF, 0xFF] := fun e => absurd h.header (by rw [e]; decide)
  rw [decodeFrame_checks, if_neg hack, if_neg herr, if_neg (not_not_intro h.marker),
    if_neg (Nat.not_lt.2 h.header), if_neg (not_not_intro h.lengthSum), if_neg (Nat.not_lt.2 h.complete),
    if_neg (not_not_intro h.payloadSum)]

theorem validData_of_decodeFrame {raw : Bytes} (h : decodeFrame raw = .ok ⟨raw, .data⟩) : ValidData raw := by
  rw [decodeFrame_checks] at h
  split_ifs at h with _ _ hmarker hshort hlengthSum htruncated hpayloadSum
  · cases h
  · cases h
  · exact ⟨hmarker, Nat.not_lt.1 hshort, not_not.1 hlengthSum, Nat.not_lt.1 htruncated, not_not.1 hpayloadSum⟩
  · cases h

/-- Settles O7: the reply is what the chain of checks answers. -/
theorem decodeChecksInOrder : Obligations.DecodeChecksInOrder := by
  unfold Obligations.DecodeChecksInOrder
  refine fun raw s => ⟨_, exec_decode raw s, ?_⟩
  rw [decodeFrame_checks]
  split_ifs <;> rfl

/-! ### The payload of a Data frame -/

theorem payloadOf_data (raw : Bytes) :
    payloadOf ⟨raw, .data⟩ = .ok ((raw.drop 8).take (lengthField raw)) := by
  rw [payloadOf, if_neg (not_not_intro rfl), slice, Nat.add_sub_cancel_left]

theorem payloadOf_notData {f : Frame} (h : f.kind ≠ .data) : payloadOf f = .error (.notDataFrame f.kind) :=
  if_pos h

/-- Settles O10: a frame that decode returned holds all the bytes its length field announces. -/
theorem payloadIsTheSliceAtOffsetEight : Obligations.PayloadIsTheSliceAtOffsetEight := by
  unfold Obligations.PayloadIsTheSliceAtOffsetEight
  refine ⟨fun raw s hdecoded => ?_, fun f s hkind => ?_⟩
  · have hvalid := validData_of_decodeFrame hdecoded
    have hcomplete := hvalid.complete
    refine ⟨_, by rw [exec_payload, payloadOf_data]; rfl, ?_, List.take_prefix _ _⟩
    rw [← lengthField_eq hvalid.header] at hcomplete ⊢
    rw [List.length_take, List.length_drop]
    omega
  · rw [exec_payload, payloadOf_notData hkind]
    rfl

/-! ### The round trip -/

section layout
variable {a b c lo hi lc pc : Byte} {p rest : Bytes} (hlength : lo.toNat + 256 * hi.toNat = p.length)
include hlength

/-- The layout of R61 is a valid Data frame, whatever its first three bytes and the bytes after the payload checksum. -/
theorem validData_of_layout (hlengthSum : (lo.toNat + hi.toNat + lc.toNat) % 256 = 0)
    (hpayloadSum : (byteSum p + pc.toNat) % 256 = 0) :
    ValidData (a :: b :: c :: 0xFF :: 0xFF :: lo :: hi :: lc :: (p ++ pc :: rest)) where
  marker := ⟨rfl, rfl⟩
  header := by simp
  lengthSum := hlengthSum
  complete := by
    simp only [List.getD_cons_succ, List.getD_cons_zero, hlength, List.length_cons, List.length_append]
    omega
  payloadSum := by
    have hrange : (p ++ pc :: rest).take (p.length + 1) = p ++ [pc] := by
      rw [List.take_length_add_append]
      rfl
    simp only [List.getD_cons_succ, List.getD_cons_zero, hlength, List.drop_succ_cons, List.drop_zero, hrange]
    simpa [byteSum] using hpayloadSum

theorem payloadOf_layout :
    payloadOf ⟨a :: b :: c :: 0xFF :: 0xFF :: lo :: hi :: lc :: (p ++ pc :: rest), .data⟩ = .ok p := by
  rw [payloadOf_data, lengthField_eq (by simp)]
  simp [hlength]

end layout

/-- The frame that encode lays out is decoded as a Data frame, and its payload is the one encoded (R116). -/
theorem dataFrame_roundTrip {p : Bytes} (h : p.length ≤ 65535) :
    decodeFrame (dataFrame p) = .ok ⟨dataFrame p, .data⟩ ∧ payloadOf ⟨dataFrame p, .data⟩ = .ok p := by
  obtain ⟨lo, hi, hbytes, hlength⟩ := lengthBytes_parts h
  have hlayout : dataFrame p =
      0x00 :: 0x00 :: 0xFF :: 0xFF :: 0xFF :: lo :: hi :: checksum [lo, hi] :: (p ++ checksum p :: [0x00]) := by
    rw [dataFrame_of_lengthBytes hbytes, List.append_assoc]
    rfl
  have hlengthSum : (lo.toNat + hi.toNat + (checksum [lo, hi]).toNat) % 256 = 0 := by
    simpa using byteSum_add_checksum [lo, hi]
  rw [hlayout]
  exact ⟨decodeFrame_of_validData (validData_of_layout hlength hlengthSum (byteSum_add_checksum p)),
    payloadOf_layout hlength⟩

/-- Settles O9: the three operations answer with the frame, its class and the payload. -/
theorem frameRoundTripReturnsThePayload : Obligations.FrameRoundTripReturnsThePayload := by
  unfold Obligations.FrameRoundTripReturnsThePayload
  intro p s hle
  obtain ⟨hdecode, hpayload⟩ := dataFrame_roundTrip hle
  refine ⟨dataFrame p, exec_encode_ok hle s, ?_, ?_⟩
  · rw [exec_decode, hdecode]
    rfl
  · rw [exec_payload, hpayload]
    rfl

end Sys2Proof.Proofs.Frame
end

section
/-!
PROOFS. The Dispatch unit's lookups and its reading of results (spec/42_dispatch.md R130 to R132, R140, R145 to R147,
R150): each table written out once, and what its operation replies.
-/

namespace Sys2Proof.Proofs.Dispatch

open Sys2Proof Sys2Proof.Machine Sys2Proof.Laws Sys2Proof.Proofs.Frame

/-! ### What each operation replies -/

theorem exec_commandOpcode (cmd : Byte) (s : State) :
    exec (.commandOpcode cmd) s = .next (reply (pureReply ((commandOpcode cmd).map .u8)) s) :=
  congrArg Host.Outcome.next (finishPure_eq_reply _ s)

theorem exec_buildRequest (cmd : Byte) (args : Bytes) (s : State) :
    exec (.buildRequest cmd args) s = .next (reply (pureReply ((buildRequest cmd args).map .bytes)) s) :=
  congrArg Host.Outcome.next (finishPure_eq_reply _ s)

theorem exec_checkResponse (cmd : Byte) (p : Bytes) (s : State) :
    exec (.checkResponse cmd p) s = .next (finish ⟨readResponse cmd readRaw p, s⟩) := rfl

theorem exec_statusName (code : Byte) (s : State) :
    exec (.statusName code) s = .next (reply (.value (.status (statusName code))) s) := rfl

theorem exec_commFlags (mask : U32) (s : State) :
    exec (.commFlags mask) s =
      .next (reply (.value (.flags (flagNames s.cfg mask) (flagResidue s.cfg mask))) s) := rfl

theorem exec_isReceiveTimeout (mask : U32) (s : State) :
    exec (.isReceiveTimeout mask) s = .next (reply (.value (.bool (isReceiveTimeout mask))) s) := rfl

theorem exec_convertTimeout (t : S32) (s : State) :
    exec (.convertTimeout t) s = .next (reply (.value (.u16 (convertTimeout t))) s) := rfl

/-! ### Command indices and opcodes -/

/-- The command indices are 0 to 6 (R66). -/
theorem commandOpcode_parameterError {cmd : Byte} (h : cmd.toNat > 6) :
    commandOpcode cmd = .error (.parameterError cmd) := by
  rw [commandOpcode, List.getElem?_eq_none h]

theorem commandOpcode_ok {cmd : Byte} (h : cmd.toNat ≤ 6) : ∃ op, commandOpcode cmd = .ok op := by
  have hrow : cmd.toNat < opcodeTable.length := Nat.lt_succ_of_le h
  exact ⟨_, by rw [commandOpcode, List.getElem?_eq_getElem hrow]⟩

/-- Settles O12: an index is one of the seven rows, or is over 6. -/
theorem commandOpcodesAreTheTable : Obligations.CommandOpcodesAreTheTable := by
  unfold Obligations.CommandOpcodesAreTheTable
  refine fun cmd s => ⟨_, exec_commandOpcode cmd s, ?_⟩
  split_ifs
  iterate 7 (subst cmd; rfl)
  · have habove : cmd.toNat > 6 := by bv_omega
    rw [commandOpcode_parameterError habove]
    rfl

/-! ### Requests and responses -/

theorem buildRequest_parameterError {cmd : Byte} (h : cmd.toNat > 6) (args : Bytes) :
    buildRequest cmd args = .error (.parameterError cmd) := by
  rw [buildRequest, commandOpcode_parameterError h]

/-- The two header bytes count against the frame's 65535 (decision D8). -/
theorem buildRequest_lengthRange {cmd op : Byte} {args : Bytes} (h : commandOpcode cmd = .ok op)
    (hl : args.length > 65533) : buildRequest cmd args = .error (.lengthRange (2 + args.length)) := by
  have hover : 2 + args.length > maxPayloadLen := by
    simp only [maxPayloadLen]
    omega
  simp only [buildRequest, h, if_pos hover]

/-- Settles O13: the index is checked before the length. -/
theorem buildRequestPrependsTheHeader : Obligations.BuildRequestPrependsTheHeader := by
  unfold Obligations.BuildRequestPrependsTheHeader
  refine fun cmd args s => ⟨_, exec_buildRequest cmd args s, ?_⟩
  split_ifs with hcmd hlength
  · rw [buildRequest_parameterError hcmd]
    rfl
  all_goals obtain ⟨op, hop⟩ := commandOpcode_ok (Nat.le_of_not_gt hcmd)
  · rw [buildRequest_lengthRange hop hlength]
    rfl
  · refine ⟨op, ?_, ?_⟩
    · rw [exec_commandOpcode, hop]
      rfl
    · rw [buildRequest_of_opcode hop (Nat.le_of_not_gt hlength)]
      rfl

theorem checkResponse_parameterError {cmd : Byte} (h : cmd.toNat > 6) (p : Bytes) :
    checkResponse cmd p = .error (.parameterError cmd) := by
  rw [checkResponse, commandOpcode_parameterError h]

/-- Settles O14: the header check alone decides the reply, the results being handed on as they are. -/
theorem checkResponseStripsAMatchingHeader : Obligations.CheckResponseStripsAMatchingHeader := by
  unfold Obligations.CheckResponseStripsAMatchingHeader
  refine fun cmd p s => ⟨fun hcmd => ?_, fun op hop => ⟨?_, fun hno => ?_⟩⟩
  · rw [exec_checkResponse, readResponse, checkResponse_parameterError hcmd]
    rfl
  · rintro results rfl
    rw [exec_checkResponse, readResponse, checkResponse_match results hop]
    rfl
  · rw [exec_checkResponse, readResponse, checkResponse_mismatch hop hno]
    rfl

/-! ### The status byte -/

/-- A byte past the table keeps its value (R140). -/
theorem statusName_unknown {code : Byte} (h : code.toNat > 7) : statusName code = .unknown code := by
  rw [statusName, List.getElem?_eq_none h]

/-- Settles O15: a status byte is one of the eight rows, or is over 7. -/
theorem statusNamesAreTheTable : Obligations.StatusNamesAreTheTable := by
  unfold Obligations.StatusNamesAreTheTable
  refine fun code s => ⟨_, exec_statusName code s, ?_⟩
  split_ifs
  iterate 8 (subst code; rfl)
  · have habove : code.toNat > 7 := by bv_omega
    exact statusName_unknown habove

/-! ### The CommunicationStatus word -/

/-- The flag table with the configured bits put in their places (R146). -/
theorem commFlagTable_rows (cfg : ConfigRegs) :
    commFlagTable cfg =
      [(.protocol, cfg.commFlagBit[0]), (.parity, cfg.commFlagBit[1]), (.crc, cfg.commFlagBit[2]),
       (.collision, cfg.commFlagBit[3]), (.overflow, cfg.commFlagBit[4]), (.temperature, cfg.commFlagBit[5]),
       (.receiveTimeout, 0x80), (.crypto1, cfg.commFlagBit[6]), (.rfca, cfg.commFlagBit[7]),
       (.rfOff, cfg.commFlagBit[8]), (.transmitTimeout, cfg.commFlagBit[9]), (.receiveLength, 0x80000000)] := by
  have hbits : cfg.commFlagBit.toList = List.ofFn fun i : Fin 10 => cfg.commFlagBit[i] := by
    rw [← Vector.toList_ofFn]
    exact congrArg Vector.toList (Vector.ext fun i hi => by simp)
  rw [commFlagTable, hbits]
  rfl

/-- A bit is in the OR of a list of words when it is in one of them. -/
theorem getLsbD_foldl_or (table : List (CommFlag × U32)) (acc : U32) (k : Nat) :
    (table.foldl (fun acc f => acc ||| f.2) acc).getLsbD k =
      (acc.getLsbD k || table.any fun f => f.2.getLsbD k) := by
  induction table generalizing acc with
  | nil => simp
  | cons f table ih => rw [List.foldl_cons, ih, BitVec.getLsbD_or, List.any_cons, Bool.or_assoc]

theorem getLsbD_knownFlags (cfg : ConfigRegs) (k : Nat) :
    (knownFlags cfg).getLsbD k = (commFlagTable cfg).any fun f => f.2.getLsbD k := by
  exact (getLsbD_foldl_or _ 0 k).trans (by simp)

/-- The residue holds the word's bits that no row of the table has (R145). -/
theorem getLsbD_flagResidue (cfg : ConfigRegs) (mask : U32) {k : Nat} (hk : k < 32) :
    (flagResidue cfg mask).getLsbD k =
      (mask.getLsbD k && !((commFlagTable cfg).any fun f => f.2.getLsbD k)) := by
  rw [flagResidue, BitVec.getLsbD_and, BitVec.getLsbD_not, getLsbD_knownFlags, decide_eq_true hk, Bool.true_and]

/-- Settles O16: the names and the residue are read off the same table. -/
theorem commFlagsNamesTheSetBits : Obligations.CommFlagsNamesTheSetBits := by
  unfold Obligations.CommFlagsNamesTheSetBits
  intro mask s
  dsimp only
  rw [← commFlagTable_rows]
  exact ⟨flagResidue s.cfg mask, exec_commFlags mask s, fun k hk => getLsbD_flagResidue s.cfg mask hk⟩

/-- The mask 0x80 is the single bit 7 (R147). -/
theorem isReceiveTimeout_eq_getLsbD (mask : U32) : isReceiveTimeout mask = mask.getLsbD 7 := by
  have hbit : (0x00000080 : U32) = BitVec.twoPow 32 7 := by decide
  rw [isReceiveTimeout, hbit, BitVec.and_twoPow]
  cases mask.getLsbD 7 <;> decide

/-- Settles O18: the masked word is zero exactly when bit 7 is. -/
theorem isReceiveTimeoutReadsBitSeven : Obligations.IsReceiveTimeoutReadsBitSeven := by
  unfold Obligations.IsReceiveTimeoutReadsBitSeven
  intro mask s
  rw [exec_isReceiveTimeout, isReceiveTimeout_eq_getLsbD, reply]

/-! ### The timeout conversion -/

/-- The conversion on unbounded integers: the saturated value fits the 16 bits (R150). -/
theorem convertTimeout_toNat (t : S32) : (convertTimeout t).toNat = min (t.toInt.toNat * 10) 0xFFFF := by
  have hclamp : (if t.toInt > 0 then t.toInt else 0).toNat = t.toInt.toNat := by
    split_ifs <;> omega
  rw [convertTimeout, hclamp, BitVec.toNat_ofNat]
  omega

/-- Settles O19: ten times 6553 is the last multiple below the bound. -/
theorem convertTimeoutScalesAndSaturates : Obligations.ConvertTimeoutScalesAndSaturates := by
  unfold Obligations.ConvertTimeoutScalesAndSaturates
  refine fun t s => ⟨_, exec_convertTimeout t s, ?_⟩
  rw [convertTimeout_toNat]
  split_ifs <;> omega

end Sys2Proof.Proofs.Dispatch
end

section
/-!
PROOFS. What every round-trip operation is (spec/42_dispatch.md R133, R137): one gated body that ends before the link or
is a single command. Its link interactions (R135) follow from the law of gated operations.
-/

namespace Sys2Proof.Proofs.RoundTrip

open Sys2Proof Sys2Proof.Machine Sys2Proof.Laws

/-- What an operation does past its gate, from the state `s`: it ends before the link with an error that is not fatal, or
performs one command. -/
def OneCommand (s : State) (body : State → Res (Option Value)) : Prop :=
  (∃ e, e.isFatal = false ∧ body s = ⟨.error e, s⟩) ∨
  ∃ cmd args read, ReaderSafe read ∧ body s = command cmd args read s

theorem oneCommand_command {read : Bytes → Except Error Value} (hread : ReaderSafe read) (s : State)
    {cmd : Byte} {args : Bytes} : OneCommand s (command cmd args read) :=
  .inr ⟨cmd, args, read, hread, rfl⟩

/-- Behind its gate, every round-trip operation performs one command; only the option check of get_firmware_version and
the profile lookups of in_set_rf can end it before (R163, R165). -/
theorem exec_roundTrip_gated {i : Instr} (hi : isRoundTrip i = true) (s : State) :
    ∃ body, exec i s = .next (finish (gated s body)) ∧ OneCommand s body := by
  cases i with
  | sendCommand => exact ⟨_, rfl, oneCommand_command readRaw_safe s⟩
  | setCommandType | reqSetCommandType | switchRF | reqSwitchRF | reqInSetRF | inSetProtocol
  | reqInSetProtocol => exact ⟨_, rfl, oneCommand_command readStatus_safe s⟩
  | reqGetFirmwareVersion | getPDDataVersion | reqGetPDDataVersion =>
    exact ⟨_, rfl, oneCommand_command readVersion_safe s⟩
  | inCommRF | reqInCommRF => exact ⟨_, rfl, oneCommand_command readComm_safe s⟩
  | getFirmwareVersion option =>
    refine ⟨_, rfl, ?_⟩
    cases hoption : optionRejected s.cfg option with
    | some e => exact .inl ⟨e, optionRejected_not_fatal hoption, by simp only [hoption]⟩
    | none => exact .inr ⟨commandIndex .getFirmwareVersion, optionArgs option, _, readVersion_safe, by simp only [hoption]⟩
  | inSetRF send recv =>
    refine ⟨_, rfl, ?_⟩
    cases hlookup : bitrateLookup s.cfg send recv with
    | error e => exact .inl ⟨e, bitrateLookup_not_fatal hlookup, by simp only [hlookup]⟩
    | ok args => exact .inr ⟨commandIndex .inSetRF, args, _, readStatus_safe, by simp only [hlookup]⟩
  | _ => cases hi

/-- Everything a round-trip operation can do: the law of gated operations, then one reply. -/
theorem exec_roundTrip_spec {i : Instr} (hi : isRoundTrip i = true) (s : State) :
    ∃ r l rep, exec i s = .next (reply rep r.st) ∧ (∀ e, rep = .error e ↔ r.out = .error e) ∧
      LinkResult s r l := by
  obtain ⟨body, hexec, hbody⟩ := exec_roundTrip_gated hi s
  obtain ⟨l, hresult⟩ := gated_spec s hbody
  obtain ⟨rep, hfinish, herror⟩ := finish_spec (gated s body)
  exact ⟨_, l, rep, by rw [hexec, hfinish], herror, hresult⟩

/-- Settles O28: the interactions are those of a round trip, of which R135 names the number and the order. -/
theorem roundTripsMakeOneWriteAndUpToTwoReads : Obligations.RoundTripsMakeOneWriteAndUpToTwoReads := by
  unfold Obligations.RoundTripsMakeOneWriteAndUpToTwoReads
  intro i s hi
  obtain ⟨r, l, rep, hexec, -, hresult⟩ := exec_roundTrip_spec hi s
  refine ⟨_, l, hexec, hresult.changes.trace, ?_⟩
  rcases hresult.events with rfl | ⟨p, -, ⟨w, d, -, -, rfl⟩ | ⟨a, -, rfl⟩ | ⟨a, b, -, -, rfl⟩⟩
  · exact .inl rfl
  · exact .inr (.inl ⟨_, w, d, rfl⟩)
  · exact .inr (.inr (.inl ⟨_, _, a, rfl⟩))
  · exact .inr (.inr (.inr ⟨_, _, a, _, b, rfl⟩))

end Sys2Proof.Proofs.RoundTrip
end

section
/-!
PROOFS. The undefined selector (spec/60_exceptions.md R213, decision D2): what a step performs, which selectors the
decoder knows, and the one result of the others.
-/

namespace Sys2Proof.Proofs.Exceptions

open Sys2Proof Sys2Proof.Machine

/-! ### Taking the next item -/

/-- With no operation running, a step performs the first item issued (R50). -/
theorem step_of_hostQueue {s : State} {it : Item} {rest : List Item} (hseq : s.seq = .start)
    (hqueue : s.hostQueue = it :: rest) : step s = perform it { s with hostQueue := rest } := by
  simp only [step, performNext, hseq, hqueue]

theorem perform_of_illegalSelector {it : Item} {sel : Byte} (h : decodeItem it = .error (.illegalSelector sel))
    (s : State) : perform it s = .next (reply (.error (.illegalOp sel)) s) := by
  simp only [perform, h]

@[simp] theorem decodeItem_host (sel : Byte) (ops : Bytes) :
    decodeItem ⟨.host, sel :: ops⟩ = decodeHostOp sel ops := rfl

/-! ### The selectors -/

/-- The selectors of R80, in its order. -/
def hostSelectors : Bytes :=
  [0x01, 0x02, 0x03, 0x04, 0x05, 0x10, 0x11, 0x12, 0x20, 0x21, 0x22, 0x23, 0x24, 0x25, 0x26,
    0x27, 0x30, 0x31, 0x32, 0x33, 0x34, 0x35, 0x36, 0x40, 0x41]

/-- The decoder reads a selector as a number, the table lists bytes: a selector is listed when its number's byte is. -/
theorem mem_hostSelectors_of_toNat {sel : Byte} {n : Nat} (hsel : sel.toNat = n)
    (hlisted : BitVec.ofNat 8 n ∈ hostSelectors) : sel ∈ hostSelectors := by
  rwa [← hsel, BitVec.ofNat_toNat, BitVec.setWidth_eq] at hlisted

/-- Each named branch of the decoder is a listed selector, so any other one takes the last branch, whatever its operand
bytes are. -/
theorem decodeHostOp_illegalSelector {sel : Byte} (h : sel ∉ hostSelectors) (ops : Bytes) :
    decodeHostOp sel ops = .error (.illegalSelector sel) := by
  unfold decodeHostOp
  split
  iterate 25
    next hsel => exact absurd (mem_hostSelectors_of_toNat hsel (by decide)) h
  rfl

/-- Settles O47: the selector is refused by the decoder, and the refusal is one reply. -/
theorem undefinedSelectorsEndWithIllegalOp : Obligations.UndefinedSelectorsEndWithIllegalOp := by
  unfold Obligations.UndefinedSelectorsEndWithIllegalOp
  intro sel ops s rest hsel hseq hqueue
  have hdecode : decodeItem ⟨.host, sel :: ops⟩ = .error (.illegalSelector sel) :=
    (decodeItem_host sel ops).trans (decodeHostOp_illegalSelector hsel ops)
  rw [step_of_hostQueue hseq hqueue, perform_of_illegalSelector hdecode, reply]

end Sys2Proof.Proofs.Exceptions
end

section
/-!
PROOFS. The decoder and the encoder (spec/30_encoding.md sections 1, 2 and 4): each operand form reads back what was put
there and nothing else, so decoding inverts encoding and accepts nothing but well-formed instructions.
-/

namespace Sys2Proof.Proofs.Decoder

open Sys2Proof Sys2Proof.Machine Sys2Proof.Laws

/-! ### An item is used up -/

theorem whole_ok_iff {α : Type} {r : Option (α × Bytes)} {k : α → Instr} {i : Instr} :
    whole r k = .ok i ↔ ∃ a, r = some (a, []) ∧ k a = i := by
  unfold whole
  split
  · simp
  · next hnot =>
    constructor
    · intro h
      cases h
    rintro ⟨a, rfl, -⟩
    exact absurd rfl (hnot a)

theorem whole_of_eq {α : Type} {r : Option (α × Bytes)} {a : α} (h : r = some (a, [])) (k : α → Instr) :
    whole r k = .ok (k a) :=
  whole_ok_iff.2 ⟨a, h, rfl⟩

/-! ### Operands that end an item -/

theorem takeBytes_last {b : Bytes} (h : hostBytes b = true) : takeBytes (putBytes b) = some (b, []) := by
  have hlength : b.length < 2 ^ 32 := of_decide_eq_true h
  simpa using takeBytes_putBytes b [] hlength

theorem takeOption_last (o : Option Byte) : takeOption (putOption o) = some (o, []) := by
  simpa using takeOption_putOption o []

theorem takeBool_last (b : Bool) : takeBool (putBool b) = some (b, []) := by
  simpa using takeBool_putBool b []

/-- The value of a word is read back from its little-endian bytes, whatever is done with it. -/
theorem whole_takeLE_word {w : Nat} (n : Nat) (v : BitVec w) (hw : 2 ^ w = 256 ^ n) (k : BitVec w → Instr) :
    whole (takeLE n (leBytes n v.toNat)) (fun m => k (BitVec.ofNat w m)) = .ok (k v) := by
  have hvalue : takeLE n (leBytes n v.toNat) = some (v.toNat, []) := by
    simpa using takeLE_leBytes n v.toNat [] (hw ▸ v.isLt)
  rw [whole_of_eq hvalue, BitVec.ofNat_toNat, BitVec.setWidth_eq]

/-- A command index and a `bytes` operand, the operands of three operations of the Dispatch unit (R80). -/
theorem take_cmd_bytes {b : Bytes} (cmd : Byte) (h : hostBytes b = true) :
    ((takeByte (cmd :: putBytes b)).bind fun c => (takeBytes c.2).map fun a => ((c.1, a.1), a.2)) =
      some ((cmd, b), []) := by
  simp [takeByte, takeBytes_last h]

theorem take_profiles (send : Byte) (recv : Option Byte) :
    ((takeByte (send :: putOption recv)).bind fun c => (takeOption c.2).map fun a => ((c.1, a.1), a.2)) =
      some ((send, recv), []) := by
  simp [takeByte, takeOption_last]

theorem take_data_timeout {data : Bytes} (t : S32) (h : hostBytes data = true) :
    ((takeBytes (putBytes data ++ leBytes 4 t.toNat)).bind fun d =>
      (takeLE 4 d.2).map fun t => ((d.1, t.1), t.2)) = some ((data, t.toNat), []) := by
  have hlength : data.length < 2 ^ 32 := of_decide_eq_true h
  have hvalue : takeLE 4 (leBytes 4 t.toNat) = some (t.toNat, []) := by
    simpa using takeLE_leBytes 4 t.toNat [] t.isLt
  simp [takeBytes_putBytes _ _ hlength, hvalue]

theorem takeParams_last (params : ProtocolParameters) :
    takeParams ((protocolValues params).flatMap putOption) = some (params, []) := by
  have hvalues : takeOptions 19 ((protocolValues params).flatMap putOption) =
      some (protocolValues params, []) := by
    have hread := takeOptions_flatMap (protocolValues params) []
    rwa [List.append_nil] at hread
  simp [takeParams, hvalues, protocolOfValues_protocolValues]

/-- A Frame operand is given by its bytes, and its kind is the one decode gives them (R81, R114). -/
theorem takeFrame_last {f : Frame} (hbytes : hostBytes f.bytes = true) (hdecode : frameFromDecode f = true) :
    takeFrame (putBytes f.bytes) = some (f, []) := by
  simp [takeFrame, takeBytes_last hbytes, of_decide_eq_true hdecode]

/-! ### Payloads and transfers -/

theorem decodePayload_request {op : Byte} {args : Bytes} (h : args.length + 2 ≤ 65535) :
    decodePayload (reqHdr :: op :: args) = decodeRequest op args := by
  have hfits : ¬ ((reqHdr :: op :: args).length > maxPayloadLen) := by
    simp only [List.length_cons, maxPayloadLen]
    omega
  rw [decodePayload, if_neg hfits]
  rfl

theorem decodePayload_response {op : Byte} {results : Bytes} (h : fitsFrame (results.length + 2) = true) :
    decodePayload (rspHdr :: op :: results) = decodeResponse op results := by
  have hle : results.length + 2 ≤ maxPayloadLen := of_decide_eq_true h
  have hfits : ¬ ((rspHdr :: op :: results).length > maxPayloadLen) := Nat.not_lt.2 hle
  rw [decodePayload, if_neg hfits]
  rfl

theorem pairBytes_length (ps : List (Byte × Byte)) : (pairBytes ps).length = 2 * ps.length :=
  serializePairs_length ps

/-- The two bytes of a word, the high one put back on top. -/
theorem append_extract (t : U16) : t.extractLsb' 8 8 ++ t.extractLsb' 0 8 = t := by
  refine BitVec.eq_of_toNat_eq ?_
  rw [append_toNat]
  exact (toLE16_parts t).2.symm

theorem decodeTransfer_data {raw : Bytes} (h : WellFormed (.frameData raw) = true) :
    decodeTransfer raw = .frameData raw := by
  simp only [WellFormed, Bool.and_eq_true, bne_iff_ne] at h
  obtain ⟨⟨hack, herr⟩, hdata⟩ := h
  rw [decodeTransfer, if_neg hack, if_neg herr, if_pos hdata]

theorem decodeTransfer_unknown {raw : Bytes} (h : WellFormed (.frameUnknown raw) = true) :
    decodeTransfer raw = .frameUnknown raw := by
  simp only [WellFormed, Bool.and_eq_true, bne_iff_ne, Bool.not_eq_true'] at h
  obtain ⟨⟨hack, herr⟩, hdata⟩ := h
  rw [decodeTransfer, if_neg hack, if_neg herr, if_neg (by simp [hdata])]

/-! ### Decoding inverts encoding -/

/-- Settles O48: at each port, the row's fixed bytes select the reader of its operands, which reads back what encode
put there. -/
theorem decodeOfEncodeIsTheInstruction : Obligations.DecodeOfEncodeIsTheInstruction := by
  unfold Obligations.DecodeOfEncodeIsTheInstruction
  intro i h
  cases i with
  | frameAck | frameErr => rfl
  | frameData raw => exact congrArg Except.ok (decodeTransfer_data h)
  | frameUnknown raw => exact congrArg Except.ok (decodeTransfer_unknown h)
  | reqInSetRF | reqSetCommandType | reqGetPDDataVersion => rfl
  | reqSwitchRF on => cases on <;> rfl
  | reqGetFirmwareVersion option => cases option <;> rfl
  | reqInSetProtocol pairs =>
    simp only [WellFormed, Bool.and_eq_true, decide_eq_true_eq] at h
    obtain ⟨hkeys, hcount⟩ := h
    refine (decodePayload_request (by rw [pairBytes_length]; omega)).trans ?_
    simp [decodeRequest, readPairs_pairBytes, hkeys, hcount]
  | reqInCommRF t data =>
    have hfits : data.length + 4 ≤ 65535 := of_decide_eq_true h
    refine (decodePayload_request (by rw [List.length_append, toLE16_length]; omega)).trans ?_
    exact congrArg (fun t => Except.ok (Instr.reqInCommRF t data)) (append_extract t)
  | rspInSetRF | rspInSetProtocol | rspInCommRF | rspSwitchRF | rspSetCommandType | rspGetFirmwareVersion
  | rspGetPDDataVersion => exact decodePayload_response h
  | checksum | checksumOk | fromLE16 | fromLE32 | encode | decode => exact whole_of_eq (takeBytes_last h) _
  | toLE16 v => exact whole_takeLE_word 2 v rfl .toLE16
  | payload f =>
    obtain ⟨hbytes, hdecode⟩ := (Bool.and_eq_true _ _).mp h
    exact whole_of_eq (takeFrame_last hbytes hdecode) _
  | commandOpcode | statusName | setCommandType => rfl
  | buildRequest cmd b | checkResponse cmd b | sendCommand cmd b =>
    exact whole_of_eq (take_cmd_bytes cmd h) _
  | commFlags mask => exact whole_takeLE_word 4 mask rfl .commFlags
  | isReceiveTimeout mask => exact whole_takeLE_word 4 mask rfl .isReceiveTimeout
  | convertTimeout t => exact whole_takeLE_word 4 t rfl .convertTimeout
  | switchRF on => exact whole_of_eq (takeBool_last on) _
  | getFirmwareVersion option => exact whole_of_eq (takeOption_last option) _
  | getPDDataVersion | openChannel | closeChannel => rfl
  | inSetRF send recv => exact whole_of_eq (take_profiles send recv) _
  | inSetProtocol params => exact whole_of_eq (takeParams_last params) _
  | inCommRF data t =>
    refine (whole_of_eq (take_data_timeout t h) _).trans ?_
    rw [BitVec.ofNat_toNat, BitVec.setWidth_eq]

/-! ### What the decoder accepts -/

theorem leNat_lt (b : Bytes) : leNat b < 256 ^ b.length := by
  induction b with
  | nil => simp [leNat]
  | cons x xs ih =>
    have := x.isLt
    rw [leNat, List.length_cons, Nat.pow_succ]
    omega

theorem takeN_ok {n : Nat} {b a rest : Bytes} (h : takeN n b = some (a, rest)) : a.length = n := by
  unfold takeN at h
  split at h
  · cases h
  · next hle =>
    cases h
    exact List.length_take_of_le (Nat.le_of_not_lt hle)

/-- A `bytes` operand is as long as its four length bytes say (R8, R81). -/
theorem takeBytes_hostBytes {b x rest : Bytes} (h : takeBytes b = some (x, rest)) : hostBytes x = true := by
  simp only [takeBytes, takeLE, Option.bind_eq_some_iff, Option.map_eq_some_iff] at h
  obtain ⟨-, ⟨⟨len, ops⟩, hlen, rfl⟩, hx⟩ := h
  have hbound : leNat len < 256 ^ 4 := takeN_ok hlen ▸ leNat_lt len
  exact decide_eq_true (takeN_ok hx ▸ hbound)

theorem take_cmd_bytes_hostBytes {b rest : Bytes} {p : Byte × Bytes}
    (h : ((takeByte b).bind fun c => (takeBytes c.2).map fun a => ((c.1, a.1), a.2)) = some (p, rest)) :
    hostBytes p.2 = true := by
  simp only [Option.bind_eq_some_iff, Option.map_eq_some_iff] at h
  obtain ⟨c, -, a, ha, heq⟩ := h
  cases heq
  exact takeBytes_hostBytes ha

theorem take_data_timeout_hostBytes {b rest : Bytes} {p : Bytes × Nat}
    (h : ((takeBytes b).bind fun d => (takeLE 4 d.2).map fun t => ((d.1, t.1), t.2)) = some (p, rest)) :
    hostBytes p.1 = true := by
  simp only [Option.bind_eq_some_iff, Option.map_eq_some_iff] at h
  obtain ⟨d, hd, t, -, heq⟩ := h
  cases heq
  exact takeBytes_hostBytes hd

/-- A Frame operand is a value that decode returned (R114). -/
theorem takeFrame_wellFormed {b rest : Bytes} {f : Frame} (h : takeFrame b = some (f, rest)) :
    WellFormed (.payload f) = true := by
  simp only [takeFrame, Option.bind_eq_some_iff] at h
  obtain ⟨⟨raw, rest'⟩, hraw, hframe⟩ := h
  split at hframe
  · next hdecode =>
    cases hframe
    obtain rfl := decodeFrame_bytes hdecode
    exact Bool.and_eq_true_iff.2 ⟨takeBytes_hostBytes hraw, decide_eq_true hdecode⟩
  · cases hframe

theorem decodeHostOp_wellFormed {sel : Byte} {ops : Bytes} {i : Instr} (h : decodeHostOp sel ops = .ok i) :
    WellFormed i = true := by
  unfold decodeHostOp at h
  split at h
  case h_26 => cases h
  all_goals
    obtain ⟨a, ha, rfl⟩ := whole_ok_iff.1 h
  case h_1 | h_2 | h_4 | h_5 | h_6 | h_7 => exact takeBytes_hostBytes ha
  case h_8 => exact takeFrame_wellFormed ha
  case h_10 | h_11 | h_12 => exact take_cmd_bytes_hostBytes ha
  case h_23 => exact take_data_timeout_hostBytes ha
  all_goals rfl

theorem decodeRequest_wellFormed {op : Byte} {args : Bytes} {i : Instr} (hfits : args.length + 2 ≤ 65535)
    (h : decodeRequest op args = .ok i) : WellFormed i = true := by
  unfold decodeRequest at h
  split at h
  case h_2 =>
    split at h
    · split at h
      · next hpairs =>
        cases h
        exact hpairs
      · cases h
    · cases h
  case h_3 =>
    split at h
    · cases h
      exact decide_eq_true hfits
    · cases h
  case h_4 | h_5 | h_7 =>
    obtain ⟨a, -, rfl⟩ := whole_ok_iff.1 h
    rfl
  case h_1 =>
    split at h <;> cases h
    rfl
  case h_6 =>
    split at h <;> cases h
    all_goals rfl
  case h_8 => cases h

theorem decodeResponse_wellFormed {op : Byte} {results : Bytes} {i : Instr} (hfits : results.length + 2 ≤ 65535)
    (h : decodeResponse op results = .ok i) : WellFormed i = true := by
  unfold decodeResponse at h
  split at h <;> cases h
  all_goals exact decide_eq_true hfits

theorem decodePayload_wellFormed {p : Bytes} {i : Instr} (h : decodePayload p = .ok i) : WellFormed i = true := by
  unfold decodePayload at h
  split at h
  · cases h
  next hlength =>
  split at h
  · have hfits : _ + 2 ≤ 65535 := Nat.le_of_not_lt hlength
    split_ifs at h
    · exact decodeRequest_wellFormed hfits h
    · exact decodeResponse_wellFormed hfits h
  · cases h

theorem decodeTransfer_wellFormed (raw : Bytes) : WellFormed (decodeTransfer raw) = true := by
  unfold decodeTransfer
  split_ifs with hack herr hdata
  · rfl
  · rfl
  all_goals simp [WellFormed, hack, herr, hdata]

/-- Settles O49: port by port, a reader's answer meets the bounds of its operands. -/
theorem decodedInstructionsAreWellFormed : Obligations.DecodedInstructionsAreWellFormed := by
  unfold Obligations.DecodedInstructionsAreWellFormed
  rintro ⟨port, bytes⟩ i h
  cases port with
  | host =>
    cases bytes with
    | nil => cases h
    | cons sel ops => exact decodeHostOp_wellFormed h
  | payload => exact decodePayload_wellFormed h
  | transfer =>
    cases h
    exact decodeTransfer_wellFormed bytes

/-- Settles O50: each word is what encode gives for its instruction. -/
theorem wordsOfTheTableDecode : Obligations.WordsOfTheTableDecode := by
  unfold Obligations.WordsOfTheTableDecode
  have decoded := decodeOfEncodeIsTheInstruction
  exact ⟨decoded (.toLE16 300) rfl, decoded (.checksum [0x01, 0x18]) rfl, decoded .openChannel rfl,
    decoded (.reqSetCommandType 0x01) rfl, decoded (.rspSetCommandType [0x00]) rfl, decoded .frameAck rfl,
    decoded .frameErr rfl⟩

end Sys2Proof.Proofs.Decoder
end

section
/-!
PROOFS. How an operation ends (spec/60_exceptions.md R216) and the two kinds of operation that need no link: the
pure ones (30_encoding.md R80), and a link operation outside its channel state (42_dispatch.md R137).
-/

namespace Sys2Proof.Proofs.Replies

open Sys2Proof Sys2Proof.Machine Sys2Proof.Laws Sys2Proof.Proofs.Frame Sys2Proof.Proofs.RoundTrip

/-! ### The one reply of an operation -/

/-- The reply that stands for what an operation ended with. -/
def outReply : Except Error (Option Value) → Reply
  | .ok (some v) => .value v
  | .ok none => .noResult
  | .error e => .error e

theorem finish_eq_reply (r : Res (Option Value)) : finish r = reply (outReply r.out) r.st := by
  rcases r with ⟨_ | _ | _, s⟩ <;> rfl

theorem outReply_map_some (r : Except Error Value) : outReply (r.map some) = pureReply r := by
  cases r <;> rfl

/-- One reply more tells which reply it was. -/
theorem next_reply_inj {r r' : Reply} {s : State} :
    (Host.Outcome.next (reply r s) : Host.Outcome State Fault Refusal) = .next (reply r' s) ↔ r = r' := by
  constructor
  · intro h
    injection h with hstate
    have hreplies : s.replies ++ [r] = s.replies ++ [r'] := congrArg State.replies hstate
    simpa using hreplies
  · rintro rfl
    rfl

/-! ### The kinds of operation -/

theorem instr_kind (i : Instr) :
    isPure i = true ∨ isRoundTrip i = true ∨ i = .openChannel ∨ i = .closeChannel := by
  rw [isPure, Bool.and_eq_true, Bool.and_eq_true, Bool.not_eq_true', bne_iff_ne, bne_iff_ne]
  rcases isRoundTrip i <;> tauto

/-- An answer that is fixed before the state is becomes the same reply in every state. -/
theorem finish_at_once (out : Except Error (Option Value)) (cfg : ConfigRegs) : ∃ r, ∀ s : State, s.cfg = cfg →
    (Host.Outcome.next (finish ⟨out, s⟩) : Host.Outcome State Fault Refusal) = .next (reply r s) :=
  ⟨outReply out, fun s _ => congrArg Host.Outcome.next (finish_eq_reply ⟨out, s⟩)⟩

/-- A pure operation hands its own answer to the shared end; only comm_flags reads the configuration for it. -/
theorem exec_pure {i : Instr} (hi : isPure i = true) (cfg : ConfigRegs) :
    ∃ r, ∀ s, s.cfg = cfg → exec i s = .next (reply r s) := by
  cases i with
  | commFlags mask =>
    refine ⟨.value (.flags (flagNames cfg mask) (flagResidue cfg mask)), ?_⟩
    rintro s rfl
    rfl
  | sendCommand | setCommandType | switchRF | getFirmwareVersion | getPDDataVersion | inSetRF | inSetProtocol
  | inCommRF | reqSetCommandType | reqSwitchRF | reqGetFirmwareVersion | reqGetPDDataVersion | reqInSetRF
  | reqInSetProtocol | reqInCommRF | openChannel | closeChannel => cases hi
  | _ => exact finish_at_once _ cfg

/-- Settles O56: the answer of a pure operation is fixed before the state is. -/
theorem pureOperationsOnlyReply : Obligations.PureOperationsOnlyReply := by
  unfold Obligations.PureOperationsOnlyReply
  exact fun i cfg hi => exec_pure hi cfg

/-! ### The gates -/

theorem gated_opened {s : State} (h : s.chanState = .opened) (body : State → Res (Option Value)) :
    gated s body = body s :=
  if_neg (not_not_intro h)

theorem gated_not_opened {s : State} (h : s.chanState ≠ .opened) (body : State → Res (Option Value)) :
    gated s body = ⟨.error (.channelState s.chanState), s⟩ :=
  if_pos h

theorem exec_roundTrip_not_opened {i : Instr} (hi : isRoundTrip i = true) {s : State}
    (h : s.chanState ≠ .opened) : exec i s = .next (reply (.error (.channelState s.chanState)) s) := by
  obtain ⟨body, hexec, -⟩ := exec_roundTrip_gated hi s
  rw [hexec, gated_not_opened h, finish_error]

theorem exec_open_not_unopened {s : State} (h : s.chanState ≠ .unopened) :
    exec .openChannel s = .next (reply (.error (.channelState s.chanState)) s) :=
  congrArg Host.Outcome.next (if_pos h)

/-- Settles O20: each gate answers before anything else is done. -/
theorem linkOperationsAreGated : Obligations.LinkOperationsAreGated := by
  unfold Obligations.LinkOperationsAreGated
  rintro i s (⟨hi, hopened⟩ | ⟨rfl, hunopened⟩)
  · exact exec_roundTrip_not_opened hi hopened
  · exact exec_open_not_unopened hunopened

end Sys2Proof.Proofs.Replies
end

section
/-!
PROOFS. The Channel unit whatever the link answers (spec/44_channel.md R180 to R184): what open can have done by
the end of a step, and the release sequence of close.
-/

namespace Sys2Proof.Proofs.Channel

open Sys2Proof Sys2Proof.Machine Sys2Proof.Laws Sys2Proof.Proofs.Replies

/-! ### Traffic without a LinkClose -/

/-- Legal link interactions, none of them a LinkClose. -/
structure Traffic (cfg : ConfigRegs) (l : List LinkEvent) : Prop where
  legal : ∀ e ∈ l, EventLegal cfg e
  noClose : l.count .close = 0

theorem Traffic.append {cfg : ConfigRegs} {l m : List LinkEvent} (hl : Traffic cfg l) (hm : Traffic cfg m) :
    Traffic cfg (l ++ m) :=
  ⟨fun e he => (List.mem_append.1 he).elim (hl.legal e) (hm.legal e), by
    rw [List.count_append, hl.noClose, hm.noClose]⟩

theorem traffic_of_roundTrip {cfg : ConfigRegs} {l : List LinkEvent} (h : RoundTripEvents cfg l) :
    Traffic cfg l :=
  ⟨h.legal, h.no_close⟩

theorem traffic_of_drain {cfg : ConfigRegs} {l : List LinkEvent} (h : DrainEvents cfg l) : Traffic cfg l where
  legal e he := by
    obtain ⟨a, ha, rfl⟩ := h e he
    exact ⟨.inr rfl, ha⟩
  noClose := List.count_eq_zero.2 fun hmem => by
    obtain ⟨a, -, ha⟩ := h _ hmem
    cases ha

/-- The Ack is a whole frame, and what arrives of it is a part of it from its start (R46, R47, R115). -/
theorem traffic_writeAck (cfg : ConfigRegs) (s : State) :
    Traffic cfg [.write ackFrame (nextWriteAnswer ackFrame s)
      (deliveredPart s.trace ackFrame (nextWriteAnswer ackFrame s))] where
  legal := by
    simp only [List.mem_singleton, forall_eq]
    exact ⟨.inl rfl, deliveredPart_prefix _ _ _, fun h => by rw [h, deliveredPart_ok]⟩
  noClose := rfl

/-! ### What open can have done by the end of a step -/

/-- How a step of open ends: OPEN with success, FAILED with an error, or still draining with nothing said. -/
def OpenEnding (s t : State) : Prop :=
  (t.chanState = .opened ∧ t.seq = .start ∧ t.replies = s.replies ++ [.value .nothing]) ∨
  (t.chanState = .failed ∧ t.seq = .start ∧ ∃ e, t.replies = s.replies ++ [.error e]) ∨
  (t.chanState = s.chanState ∧ t.seq = .draining ∧ t.replies = s.replies)

/-- What a step of open makes of the state `s`, with the link interactions `l`. -/
structure OpenResult (s t : State) (l : List LinkEvent) : Prop where
  cfg : t.cfg = s.cfg
  trace : t.trace = s.trace ++ l
  traffic : Traffic s.cfg l
  ending : OpenEnding s t

theorem openEnd_result {s : State} {r : Res Unit} {l : List LinkEvent} (hx : Extends s r.st l)
    (hl : Traffic s.cfg l) : OpenResult s (openEnd r) l where
  cfg := by rw [openEnd_cfg, hx.cfg]
  trace := by rw [openEnd_trace, hx.trace]
  traffic := hl
  ending := by
    rcases r with ⟨e | _, t⟩
    · exact .inr (.inl ⟨rfl, rfl, e, congrArg (· ++ [Reply.error e]) hx.replies⟩)
    · exact .inl ⟨rfl, rfl, congrArg (· ++ [Reply.value .nothing]) hx.replies⟩

/-- After its drain reads open drains on, performs its two commands, or has failed. -/
theorem afterDrain_result {s : State} {d : DrainVerdict × State} {l : List LinkEvent} (hx : Extends s d.2 l)
    (hchan : d.2.chanState = s.chanState) (hl : Traffic s.cfg l) : ∃ m, OpenResult s (afterDrain d) m := by
  obtain ⟨_ | _ | e, d⟩ := d
  · exact ⟨l, hx.cfg, hx.trace, hl, .inr (.inr ⟨hchan, rfl, hx.replies⟩)⟩
  · obtain ⟨m, n, hcommands, hm, hn⟩ := openCommands_spec d
    have htraffic := (traffic_of_roundTrip hm).append (traffic_of_roundTrip hn)
    rw [hx.cfg] at htraffic
    exact ⟨_, openEnd_result (hx.trans hcommands) (hl.append htraffic)⟩
  · exact ⟨l, openEnd_result (r := ⟨.error e, d⟩) hx hl⟩

theorem resumeOpen_result (s : State) : ∃ l, OpenResult s (resumeOpen s) l := by
  obtain ⟨hx, hchan⟩ := drainRead_spec s
  refine afterDrain_result hx hchan (traffic_of_drain fun e he => ?_)
  exact ⟨_, nextReadAnswer_ne_empty _ _, List.mem_singleton.1 he⟩

theorem exec_open_writeFailed {s : State} {e : Error} (h : s.chanState = .unopened)
    (hwrite : writeError (writeAck s).1 = some e) :
    exec .openChannel s = .next (openEnd ⟨.error e, (writeAck s).2⟩) := by
  simp only [exec, execOpen, if_neg (not_not_intro h), hwrite]

theorem exec_open_written {s : State} (h : s.chanState = .unopened) (hwrite : writeError (writeAck s).1 = none) :
    exec .openChannel s =
      .next (afterDrain (drainReady (writeAck s).2.readAnswers.length (writeAck s).2)) := by
  simp only [exec, execOpen, if_neg (not_not_intro h), hwrite]

theorem exec_open_result {s : State} (h : s.chanState = .unopened) :
    ∃ t l, exec .openChannel s = .next t ∧ OpenResult s t l := by
  have hwrite : Extends s (writeAck s).2 _ := extends_linkWrite ackFrame s
  have hack := traffic_writeAck s.cfg s
  cases hanswer : writeError (writeAck s).1 with
  | some e =>
    exact ⟨_, _, exec_open_writeFailed h hanswer, openEnd_result (r := ⟨.error e, (writeAck s).2⟩) hwrite hack⟩
  | none =>
    obtain ⟨l, hdrain, hchan, hl⟩ := drainReady_spec (writeAck s).2.readAnswers.length (writeAck s).2
    obtain ⟨m, hresult⟩ := afterDrain_result (hwrite.trans hdrain) hchan (hack.append (traffic_of_drain hl))
    exact ⟨_, m, exec_open_written h hanswer, hresult⟩

/-- Settles O40: the ways a step of open can end, from UNOPENED. -/
theorem openEndsOpenFailedOrStillDraining : Obligations.OpenEndsOpenFailedOrStillDraining := by
  unfold Obligations.OpenEndsOpenFailedOrStillDraining
  intro s hunopened
  obtain ⟨t, l, hexec, hresult⟩ := exec_open_result hunopened
  have hending := hresult.ending
  rw [OpenEnding, hunopened] at hending
  exact ⟨t, hexec, hending⟩

/-! ### Close -/

theorem command_st (cmd : Byte) (args : Bytes) (read : Bytes → Except Error Value) (s : State) :
    (command cmd args read s).st = (roundTrip cmd args s).st := by
  unfold command
  rcases roundTrip cmd args s with ⟨_ | _ | _, t⟩ <;> rfl

/-- A round trip whose request can be built writes it once, and makes at most two reads after it (R133, R135). -/
theorem roundTrip_trace {cmd op : Byte} {args : Bytes} (hop : commandOpcode cmd = .ok op)
    (hl : args.length ≤ 65533) (s : State) :
    ∃ w d reads, (roundTrip cmd args s).st.trace = s.trace ++ .write (dataFrame (0xD6 :: op :: args)) w d :: reads ∧
      reads.length ≤ 2 ∧ ∀ e ∈ reads, ∃ m a, e = .read m a := by
  have hframe : encodeFrame (0xD6 :: op :: args) = .ok (dataFrame (0xD6 :: op :: args)) :=
    encodeFrame_ok (by simp only [List.length_cons]; omega)
  simp only [roundTrip, buildRequest_of_opcode hop hl, Except.bind, hframe]
  set w := linkWrite (dataFrame (0xD6 :: op :: args)) s with hw
  rcases linkWriteOrFatal_spec (dataFrame (0xD6 :: op :: args)) s with ⟨-, hwrite⟩ | ⟨-, k, hwrite⟩ <;>
    rw [hwrite, ← hw]
  · obtain ⟨reads, hx, -, hreads⟩ := awaitResponse_spec cmd w.2
    have htrace : (awaitResponse cmd w.2).st.trace = _ := hx.trace.trans (List.append_assoc ..)
    refine ⟨_, _, reads, htrace, ?_⟩
    rcases hreads with ⟨a, -, rfl⟩ | ⟨a, b, -, -, rfl⟩ <;> simp
  · exact ⟨_, _, [], rfl, by simp, by simp⟩

/-- The state in which the SwitchRF(false) of close has been tried (R183). -/
def rfReleased (s : State) : State :=
  (command (commandIndex .switchRF) (switchArgs false) readStatus s).st

theorem rfReleased_extends (s : State) : ∃ l, Extends s (rfReleased s) l ∧ RoundTripEvents s.cfg l := by
  obtain ⟨l, hx, -, hl⟩ := command_spec (commandIndex .switchRF) (switchArgs false) readStatus_safe s
  exact ⟨l, hx, hl⟩

theorem rfReleased_trace (s : State) : ∃ w d reads,
    (rfReleased s).trace = s.trace ++ .write (dataFrame [0xD6, 0x06, 0x00]) w d :: reads ∧
      reads.length ≤ 2 ∧ ∀ e ∈ reads, ∃ m a, e = .read m a := by
  rw [rfReleased, command_st]
  exact roundTrip_trace rfl (by decide) s

theorem releaseLink_eq (s : State) :
    releaseLink s = { linkClose (writeAck (rfReleased s)).2 with chanState := .closed } := rfl

/-- The Ack and the LinkClose that end the release sequence (R183). -/
def releaseEnd (s : State) : List LinkEvent :=
  [.write ackFrame (nextWriteAnswer ackFrame s) (deliveredPart s.trace ackFrame (nextWriteAnswer ackFrame s)),
    .close]

theorem releaseLink_trace (s : State) :
    (releaseLink s).trace = (rfReleased s).trace ++ releaseEnd (rfReleased s) := by
  rw [releaseLink_eq, releaseEnd, writeAck]
  simp only [linkClose_trace, linkWrite_trace, List.append_assoc, List.cons_append, List.nil_append]

theorem exec_close_closed {s : State} (h : s.chanState = .closed) :
    exec .closeChannel s = .next (reply (.value .nothing) s) := by
  simp only [exec, execClose, if_pos h]

theorem exec_close_not_closed {s : State} (h : s.chanState ≠ .closed) :
    exec .closeChannel s = .next (reply (.value .nothing) (releaseLink s)) := by
  simp only [exec, execClose, if_neg h]

/-- Settles O44: the release sequence is SwitchRF(false) with any outcome, the Ack with any answer, and LinkClose. -/
theorem closeAlwaysReleasesTheLink : Obligations.CloseAlwaysReleasesTheLink := by
  unfold Obligations.CloseAlwaysReleasesTheLink
  intro s
  by_cases hclosed : s.chanState = .closed
  · exact ⟨_, exec_close_closed hclosed, hclosed, rfl, rfl, rfl, rfl, fun h => absurd hclosed h⟩
  · obtain ⟨l, hx, -⟩ := rfReleased_extends s
    obtain ⟨w, d, reads, htrace, hcount, hreads⟩ := rfReleased_trace s
    have hwhole : (releaseLink s).trace = s.trace ++ [.write (dataFrame [0xD6, 0x06, 0x00]) w d] ++ reads ++
        releaseEnd (rfReleased s) := by
      rw [releaseLink_trace, htrace]
      simp only [List.append_assoc, List.cons_append, List.nil_append]
    exact ⟨_, exec_close_not_closed hclosed, rfl, congrArg (· ++ [Reply.value .nothing]) hx.replies, hx.cfg,
      hx.seq, hx.hostQueue, fun _ => ⟨w, d, reads, _, _, hwhole, hcount, hreads⟩⟩

/-- Settles O45: in CLOSED close only replies. -/
theorem closeIsIdempotent : Obligations.CloseIsIdempotent := by
  unfold Obligations.CloseIsIdempotent
  exact fun s hclosed => exec_close_closed hclosed

end Sys2Proof.Proofs.Channel
end

section
/-!
PROOFS. What one step can do (spec/10_state.md R24, R38; 20_memory.md R46, R51): one law of the step, from which the
invariant, the transitions of the channel state and the silence after close follow.
-/

namespace Sys2Proof.Proofs.Steps

open Sys2Proof Sys2Proof.Machine Sys2Proof.Laws Sys2Proof.Proofs.RoundTrip Sys2Proof.Proofs.Exceptions
  Sys2Proof.Proofs.Replies Sys2Proof.Proofs.Channel

/-! ### The law of the step -/

/-- What a step makes of the state `s`, with the link interactions `l`. -/
structure StepEffect (s t : State) (l : List LinkEvent) : Prop where
  cfg : t.cfg = s.cfg
  trace : t.trace = s.trace ++ l
  legal : ∀ e ∈ l, EventLegal s.cfg e
  chan : chanStep s.chanState t.chanState = true
  /-- LinkClose is issued on the way to CLOSED, and nowhere else (R183, R184). -/
  closes : l.count .close = if s.chanState ≠ .closed ∧ t.chanState = .closed then 1 else 0
  draining : t.seq = .draining → t.chanState = .unopened
  /-- A CLOSED channel uses the link no more, and opens no more (R24, R184). -/
  afterClose : s.chanState = .closed → l = [] ∧ t.seq = s.seq

theorem chanStep_self (c : ChanState) : chanStep c c = true := by
  cases c <;> rfl

theorem chanStep_closed {c : ChanState} (h : chanStep .closed c = true) : c = .closed := by
  cases c with
  | closed => rfl
  | _ => cases h

theorem chanStep_to_closed (c : ChanState) : chanStep c .closed = true := by
  cases c <;> rfl

/-- In a state from which no drain of another channel state goes on, doing nothing on the link is a legal step. -/
theorem StepEffect.refl {s : State} (h : s.seq = .draining → s.chanState = .unopened) : StepEffect s s [] where
  cfg := rfl
  trace := (List.append_nil _).symm
  legal := by simp
  chan := chanStep_self _
  closes := (if_neg fun ⟨hopen, hclosed⟩ => hopen hclosed).symm
  draining := h
  afterClose _ := ⟨rfl, rfl⟩

/-- The law speaks neither of the replies nor of the queue. -/
theorem StepEffect.reply {s t : State} {l : List LinkEvent} (h : StepEffect s t l) (r : Reply) :
    StepEffect s (reply r t) l :=
  ⟨h.cfg, h.trace, h.legal, h.chan, h.closes, h.draining, h.afterClose⟩

theorem StepEffect.of_hostQueue {s t : State} {l : List LinkEvent} {queue : List Item}
    (h : StepEffect { s with hostQueue := queue } t l) : StepEffect s t l :=
  ⟨h.cfg, h.trace, h.legal, h.chan, h.closes, h.draining, h.afterClose⟩

/-! ### Each kind of operation -/

theorem openResult_effect {s t : State} {l : List LinkEvent} (hs : s.chanState = .unopened)
    (h : OpenResult s t l) : StepEffect s t l := by
  have hother : ¬ (s.chanState ≠ .closed ∧ t.chanState = .closed) ∧ chanStep s.chanState t.chanState = true ∧
      (t.seq = .draining → t.chanState = .unopened) := by
    rcases h.ending with ⟨hc, hq, -⟩ | ⟨hc, hq, -⟩ | ⟨hc, hq, -⟩ <;> simp [hs, hc, hq, chanStep]
  obtain ⟨hnotClosed, hchan, hdraining⟩ := hother
  refine ⟨h.cfg, h.trace, h.traffic.legal, hchan, ?_, hdraining, fun hclosed => ?_⟩
  · rw [h.traffic.noClose, if_neg hnotClosed]
  · rw [hs] at hclosed
    cases hclosed

/-- A round trip of an OPEN channel: it stays OPEN or latches FAILED. -/
theorem linkResult_effect {s : State} {r : Res (Option Value)} {l : List LinkEvent} (hs : s.chanState = .opened)
    (hdrain : s.seq = .draining → s.chanState = .unopened) (h : LinkResult s r l) : StepEffect s r.st l := by
  have hchan : r.st.chanState = .failed ∨ r.st.chanState = .opened := by
    rcases h.latched with ⟨-, -, -, hfailed⟩ | ⟨-, hkept⟩
    · exact .inl hfailed
    · exact .inr (hkept.trans hs)
  refine ⟨h.changes.cfg, h.changes.trace, h.events.legal, ?_, ?_, fun hseq => ?_, fun hclosed => ?_⟩
  · rcases hchan with hc | hc <;> rw [hs, hc] <;> rfl
  · rw [h.events.no_close, if_neg]
    rcases hchan with hc | hc <;> simp [hc]
  · rw [h.changes.seq] at hseq
    exact absurd (hdrain hseq) (by simp [hs])
  · rw [hs] at hclosed
    cases hclosed

/-- The release sequence (R183). -/
theorem releaseLink_effect {s : State} (hs : s.chanState ≠ .closed) (hseq : s.seq = .start) :
    ∃ l, StepEffect s (releaseLink s) l := by
  obtain ⟨l, hx, hl⟩ := rfReleased_extends s
  have hack := traffic_writeAck s.cfg (rfReleased s)
  refine ⟨l ++ releaseEnd (rfReleased s), hx.cfg, ?_, ?_, chanStep_to_closed _, ?_, fun h => ?_, fun h => absurd h hs⟩
  · rw [releaseLink_trace, hx.trace, List.append_assoc]
  · intro e he
    rcases List.mem_append.1 he with he | he
    · exact hl.legal e he
    · rcases List.mem_cons.1 he with rfl | he
      · exact hack.legal _ (List.mem_singleton_self _)
      · obtain rfl := List.mem_singleton.1 he
        exact trivial
  · rw [List.count_append, hl.no_close, if_pos ⟨hs, rfl⟩]
    rfl
  · have hstart : (releaseLink s).seq = .start := hx.seq.trans hseq
    rw [hstart] at h
    cases h

/-- The law for every operation that is performed while no open drains. -/
theorem exec_effect (i : Instr) {s : State} (hseq : s.seq = .start) :
    ∃ t l, exec i s = .next t ∧ StepEffect s t l := by
  have hdrain : s.seq = .draining → s.chanState = .unopened := fun h => by
    rw [hseq] at h
    cases h
  have hquiet : ∀ r, StepEffect s (reply r s) [] := (StepEffect.refl hdrain).reply
  rcases instr_kind i with hpure | hround | rfl | rfl
  · obtain ⟨r, hexec⟩ := exec_pure hpure s.cfg
    exact ⟨_, [], hexec s rfl, hquiet r⟩
  · by_cases hs : s.chanState = .opened
    · obtain ⟨r, l, rep, hexec, -, hresult⟩ := exec_roundTrip_spec hround s
      exact ⟨_, l, hexec, (linkResult_effect hs hdrain hresult).reply rep⟩
    · exact ⟨_, [], exec_roundTrip_not_opened hround hs, hquiet _⟩
  · by_cases hs : s.chanState = .unopened
    · obtain ⟨t, l, hexec, hresult⟩ := exec_open_result hs
      exact ⟨t, l, hexec, openResult_effect hs hresult⟩
    · exact ⟨_, [], exec_open_not_unopened hs, hquiet _⟩
  · by_cases hs : s.chanState = .closed
    · exact ⟨_, [], exec_close_closed hs, hquiet _⟩
    · obtain ⟨l, heffect⟩ := releaseLink_effect hs hseq
      exact ⟨_, l, exec_close_not_closed hs, heffect.reply _⟩

/-! ### The step -/

theorem step_draining {s : State} (h : s.seq = .draining) : step s = .next (resumeOpen s) := by
  simp only [step, performNext, h]

theorem step_idle {s : State} (hseq : s.seq = .start) (hqueue : s.hostQueue = []) : step s = .next s := by
  simp only [step, performNext, hseq, hqueue]

theorem perform_of_ok {it : Item} {i : Instr} (h : decodeItem it = .ok i) (s : State) : perform it s = exec i s := by
  simp only [perform, h]

theorem perform_effect (it : Item) {s t : State} (hseq : s.seq = .start) (h : perform it s = .next t) :
    ∃ l, StepEffect s t l := by
  unfold perform at h
  split at h
  · next i _ =>
    obtain ⟨u, l, hexec, heffect⟩ := exec_effect i hseq
    rw [hexec] at h
    cases h
    exact ⟨l, heffect⟩
  · cases h
    exact ⟨[], (StepEffect.refl fun hdrain => by rw [hseq] at hdrain; cases hdrain).reply _⟩
  · cases h
  · cases h

theorem step_start_effect {s t : State} (hseq : s.seq = .start) (h : step s = .next t) : ∃ l, StepEffect s t l := by
  cases hqueue : s.hostQueue with
  | nil =>
    rw [step_idle hseq hqueue] at h
    cases h
    exact ⟨[], StepEffect.refl fun hdrain => by rw [hseq] at hdrain; cases hdrain⟩
  | cons it rest =>
    rw [step_of_hostQueue hseq hqueue] at h
    obtain ⟨l, heffect⟩ := perform_effect (s := { s with hostQueue := rest }) it hseq h
    exact ⟨l, heffect.of_hostQueue⟩

/-- The law of the step, where only an UNOPENED channel drains. -/
theorem step_effect {s t : State} (hdrain : s.seq = .draining → s.chanState = .unopened) (h : step s = .next t) :
    ∃ l, StepEffect s t l := by
  cases hseq : s.seq with
  | start => exact step_start_effect hseq h
  | draining =>
    rw [step_draining hseq] at h
    cases h
    obtain ⟨l, hresult⟩ := resumeOpen_result s
    exact ⟨l, openResult_effect (hdrain hseq) hresult⟩

/-! ### The invariant -/

/-- Settles O53: the law of the step keeps each part of the invariant. -/
theorem everyStepKeepsTheInvariant : Obligations.EveryStepKeepsTheInvariant := by
  unfold Obligations.EveryStepKeepsTheInvariant
  intro s t hinv hstep
  obtain ⟨l, heffect⟩ := step_effect hinv.drainUnopened hstep
  refine ⟨?_, ?_, heffect.draining, fun e he => ?_, ?_⟩
  · rw [heffect.cfg]
    exact hinv.keysDistinct
  · rw [heffect.cfg]
    exact hinv.flagBits
  · rw [heffect.trace] at he
    rw [heffect.cfg]
    exact (List.mem_append.1 he).elim (hinv.eventsLegal e) (heffect.legal e)
  · rw [heffect.trace, List.count_append, hinv.closeOnce, heffect.closes]
    by_cases hs : s.chanState = .closed
    · have hchan := heffect.chan
      rw [hs] at hchan
      simp [hs, chanStep_closed hchan]
    · simp [hs]

/-- The keys are the values of a permutation (log entry 8). -/
theorem instantiated_keys_nodup : ConfigRegs.instantiated.protocolKeyId.toList.Nodup := by
  rw [ConfigRegs.instantiated, Vector.toList_ofFn, List.nodup_ofFn]
  intro f g h
  have hfin : Config.protocolKeyChoice (f.castLE (by decide)) = Config.protocolKeyChoice (g.castLE (by decide)) :=
    congrArg BitVec.toFin h
  exact Fin.castLE_injective _ (Config.protocolKeyChoice.injective hfin)

theorem freeFlagBit_injective : Function.Injective Config.freeFlagBit := by
  intro p q h
  unfold Config.freeFlagBit at h
  refine Fin.ext ?_
  split_ifs at h <;> omega

theorem freeFlagBit_legal (p : Fin 30) :
    Config.freeFlagBit p < 32 ∧ Config.freeFlagBit p ≠ 7 ∧ Config.freeFlagBit p ≠ 31 := by
  have := p.isLt
  unfold Config.freeFlagBit
  split_ifs <;> omega

/-- A single bit of a word is at one place only. -/
theorem twoPow_inj {j k : Nat} (hj : j < 32) (h : BitVec.twoPow 32 j = BitVec.twoPow 32 k) : j = k := by
  have hbit : (BitVec.twoPow 32 k).getLsbD j = true := by
    rw [← h]
    simp [hj]
  simp only [BitVec.getLsbD_twoPow, Bool.and_eq_true, decide_eq_true_eq] at hbit
  exact hbit.2.symm

/-- The flag bits are distinct free bits (log entry 8). -/
theorem instantiated_flagBits_legal : FlagBitsLegal ConfigRegs.instantiated.commFlagBit.toList := by
  rw [ConfigRegs.instantiated, Vector.toList_ofFn]
  constructor
  · rw [List.nodup_ofFn]
    intro f g h
    have hbit := twoPow_inj (freeFlagBit_legal _).1 h
    exact Fin.castLE_injective _ (Config.commFlagChoice.injective (freeFlagBit_injective hbit))
  · intro b hb
    obtain ⟨i, rfl⟩ := List.mem_ofFn.1 hb
    obtain ⟨hlt, hreceiveTimeout, hreceiveLength⟩ := freeFlagBit_legal (Config.commFlagChoice (i.castLE (by decide)))
    exact ⟨_, hlt, hreceiveTimeout, hreceiveLength, rfl⟩

/-- Settles O52: the configuration is chosen legal, and nothing has happened. -/
theorem invariantHoldsAtReset : Obligations.InvariantHoldsAtReset := by
  unfold Obligations.InvariantHoldsAtReset
  exact ⟨instantiated_keys_nodup, instantiated_flagBits_legal, fun _ => rfl, by simp [State.reset], rfl⟩

/-- Settles O51: the fields of the reset state. -/
theorem resetLeavesTheChannelUnopened : Obligations.ResetLeavesTheChannelUnopened := by
  unfold Obligations.ResetLeavesTheChannelUnopened
  exact ⟨rfl, rfl, rfl, rfl, rfl, rfl⟩

/-! ### What a step leaves, and what it may change -/

/-- Settles O54: of a draining open by what a drain read can do, of any other step by the law. -/
theorem configurationIsImmutable : Obligations.ConfigurationIsImmutable := by
  unfold Obligations.ConfigurationIsImmutable
  intro s t h
  cases hseq : s.seq with
  | start =>
    obtain ⟨l, heffect⟩ := step_start_effect hseq h
    exact heffect.cfg
  | draining =>
    rw [step_draining hseq] at h
    cases h
    obtain ⟨l, hresult⟩ := resumeOpen_result s
    exact hresult.cfg

/-- Settles O55: a part of the law of the step. -/
theorem onlyTableTransitionsOfChanState : Obligations.OnlyTableTransitionsOfChanState := by
  unfold Obligations.OnlyTableTransitionsOfChanState
  intro s t hdrain h
  obtain ⟨l, heffect⟩ := step_effect hdrain h
  exact heffect.chan

/-- Settles O46: the head of the queue is decoded and performed. -/
theorem stepRunsTheDecodedInstruction : Obligations.StepRunsTheDecodedInstruction := by
  unfold Obligations.StepRunsTheDecodedInstruction
  refine ⟨fun s it rest i hseq hqueue hdecode => ?_, fun s hseq hqueue => step_idle hseq hqueue⟩
  rw [step_of_hostQueue hseq hqueue, perform_of_ok hdecode]

/-! ### Silence after close -/

/-- A step of a CLOSED channel at the start of its sequence keeps both, and the link is not used. -/
theorem step_closed {s t : State} (hclosed : s.chanState = .closed) (hseq : s.seq = .start) (h : step s = .next t) :
    t.chanState = .closed ∧ t.seq = .start ∧ t.trace = s.trace := by
  obtain ⟨l, heffect⟩ := step_start_effect hseq h
  obtain ⟨rfl, hkept⟩ := heffect.afterClose hclosed
  have hchan := heffect.chan
  rw [hclosed] at hchan
  exact ⟨chanStep_closed hchan, hkept.trans hseq, heffect.trace.trans (List.append_nil _)⟩

/-- A run of a machine that did not stop begins with a step that did not. -/
theorem run_succ_next {M : Host.Core} {n : Nat} {s t : M.State} (h : M.run (n + 1) s = .next t) :
    ∃ u, M.step s = .next u ∧ M.run n u = .next t := by
  unfold Host.Core.run at h
  split at h
  · next u hu => exact ⟨u, hu, h⟩
  · cases h
  · cases h

/-- Settles O59: by induction on the number of steps, each of them being silent. -/
theorem nothingReachesTheLinkAfterClose : Obligations.NothingReachesTheLinkAfterClose := by
  unfold Obligations.NothingReachesTheLinkAfterClose
  intro n
  induction n with
  | zero =>
    intro s t hclosed _ hrun
    cases hrun
    exact ⟨hclosed, rfl⟩
  | succ n ih =>
    intro s t hclosed hseq hrun
    obtain ⟨u, hstep, hrest⟩ := run_succ_next hrun
    obtain ⟨huclosed, huseq, hutrace⟩ := step_closed hclosed hseq hstep
    obtain ⟨htclosed, httrace⟩ := ih u t huclosed huseq hrest
    exact ⟨htclosed, httrace.trans hutrace⟩

end Sys2Proof.Proofs.Steps
end

section
/-!
PROOFS. Operations do not reach one another but through the link and the channel (spec/20_memory.md R55,
10_state.md R36): no operation reads the results returned before it or the operations issued after it, and each
adds its one result (R12).
-/

namespace Sys2Proof.Proofs.Interference

open Sys2Proof Sys2Proof.Machine Sys2Proof.Laws Sys2Proof.Proofs.RoundTrip Sys2Proof.Proofs.Replies
  Sys2Proof.Proofs.Channel

/-! ### One result -/

/-- Settles O57: each kind of operation ends in the shared end, but for an open that still drains. -/
theorem everyOperationGivesOneResult : Obligations.EveryOperationGivesOneResult := by
  unfold Obligations.EveryOperationGivesOneResult
  intro i s
  rcases instr_kind i with hpure | hround | rfl | rfl
  · obtain ⟨r, hexec⟩ := exec_pure hpure s.cfg
    exact ⟨_, hexec s rfl, .inl ⟨r, rfl⟩⟩
  · obtain ⟨r, l, rep, hexec, -, hresult⟩ := exec_roundTrip_spec hround s
    exact ⟨_, hexec, .inl ⟨rep, congrArg (· ++ [rep]) hresult.changes.replies⟩⟩
  · by_cases hs : s.chanState = .unopened
    · obtain ⟨t, l, hexec, hresult⟩ := exec_open_result hs
      refine ⟨t, hexec, ?_⟩
      rcases hresult.ending with ⟨-, -, hreplies⟩ | ⟨-, -, e, hreplies⟩ | ⟨-, hseq, hreplies⟩
      · exact .inl ⟨_, hreplies⟩
      · exact .inl ⟨_, hreplies⟩
      · exact .inr ⟨rfl, hseq, hreplies⟩
    · exact ⟨_, exec_open_not_unopened hs, .inl ⟨_, rfl⟩⟩
  · obtain ⟨t, hexec, -, hreplies, -⟩ := closeAlwaysReleasesTheLink s
    exact ⟨t, hexec, .inl ⟨_, hreplies⟩⟩

/-! ### Parts of an operation that read neither results nor queue -/

/-- The state `s` with another queue and other results returned. -/
def withHost (queue : List Item) (earlier : List Reply) (s : State) : State :=
  { s with hostQueue := queue, replies := earlier }

/-- A part of an operation that neither reads nor changes the queue and the results. -/
def Blind {α : Type} (f : State → Res α) : Prop :=
  ∀ queue earlier s, f (withHost queue earlier s) = ⟨(f s).out, withHost queue earlier (f s).st⟩

theorem blind_done {α : Type} (out : Except Error α) : Blind fun s => ⟨out, s⟩ :=
  fun _ _ _ => rfl

theorem blind_andThen {α β : Type} {f : State → Res α} {k : α → State → Res β} (hf : Blind f)
    (hk : ∀ a, Blind (k a)) : Blind fun s => (f s).andThen k := by
  intro queue earlier s
  dsimp only
  rw [hf]
  rcases f s with ⟨_ | a, t⟩
  · rfl
  · exact hk a queue earlier t

theorem blind_linkWriteOrFatal (b : Bytes) : Blind (linkWriteOrFatal b) := by
  intro queue earlier s
  have hanswer : nextWriteAnswer b (withHost queue earlier s) = nextWriteAnswer b s := rfl
  simp only [linkWriteOrFatal, linkWrite_answer, hanswer]
  cases nextWriteAnswer b s <;> rfl

theorem blind_readFrameOrFatal : Blind readFrameOrFatal := by
  intro queue earlier s
  have hanswer : nextReadAnswer s.cfg.respTimeoutMs (withHost queue earlier s) =
    nextReadAnswer s.cfg.respTimeoutMs s := rfl
  have hcfg : (withHost queue earlier s).cfg = s.cfg := rfl
  simp only [readFrameOrFatal, linkRead_answer, hcfg, hanswer]
  rcases nextReadAnswer s.cfg.respTimeoutMs s with raw | _ | _ | _
  · dsimp only
    cases decodeFrame raw <;> rfl
  all_goals rfl

theorem blind_ite {α : Type} {p : Prop} [Decidable p] {f g : State → Res α} (hf : Blind f) (hg : Blind g) :
    Blind fun s => if p then f s else g s := by
  split
  · exact hf
  · exact hg

theorem blind_awaitResponse (cmd : Byte) : Blind (awaitResponse cmd) :=
  blind_andThen blind_readFrameOrFatal fun _ => blind_ite (blind_done _)
    (blind_andThen blind_readFrameOrFatal fun _ => blind_ite (blind_done _) (blind_done _))

theorem blind_roundTrip (cmd : Byte) (args : Bytes) : Blind (roundTrip cmd args) := by
  unfold roundTrip
  cases (buildRequest cmd args).bind encodeFrame with
  | error e => exact blind_done _
  | ok frame => exact blind_andThen (blind_linkWriteOrFatal frame) fun _ => blind_awaitResponse cmd

theorem blind_command (cmd : Byte) (args : Bytes) (read : Bytes → Except Error Value) :
    Blind (command cmd args read) := by
  refine blind_andThen (blind_roundTrip cmd args) fun o => ?_
  cases o <;> exact blind_done _

theorem blind_gated {body : State → Res (Option Value)} (h : Blind body) : Blind fun s => gated s body := by
  intro queue earlier s
  by_cases hs : s.chanState = .opened
  · have hs' : (withHost queue earlier s).chanState = .opened := hs
    simp only [gated_opened hs, gated_opened hs']
    exact h queue earlier s
  · have hs' : (withHost queue earlier s).chanState ≠ .opened := hs
    simp only [gated_not_opened hs, gated_not_opened hs']
    rfl

/-- A body chosen by the configuration is blind when each of its choices is. -/
theorem blind_of_cfg {α : Type} {f : ConfigRegs → State → Res α} (h : ∀ cfg, Blind (f cfg)) :
    Blind fun s => f s.cfg s :=
  fun queue earlier s => h s.cfg queue earlier s

theorem exec_roundTrip_blind {i : Instr} (hi : isRoundTrip i = true) :
    ∃ f, Blind f ∧ ∀ s, exec i s = .next (finish (f s)) := by
  cases i with
  | sendCommand | setCommandType | reqSetCommandType | switchRF | reqSwitchRF | reqInSetRF | reqInSetProtocol
  | reqGetFirmwareVersion | getPDDataVersion | reqGetPDDataVersion | inCommRF | reqInCommRF =>
    exact ⟨_, blind_gated (blind_command _ _ _), fun _ => rfl⟩
  | inSetProtocol params =>
    exact ⟨_, blind_of_cfg fun cfg =>
      blind_gated (blind_command (commandIndex .inSetProtocol) (protocolArgs cfg params) readStatus), fun _ => rfl⟩
  | getFirmwareVersion option =>
    refine ⟨_, blind_gated (blind_of_cfg (f := fun cfg s => match optionRejected cfg option with
      | some e => ⟨.error e, s⟩
      | none => command (commandIndex .getFirmwareVersion) (optionArgs option) readVersion s) fun cfg => ?_),
      fun _ => rfl⟩
    cases optionRejected cfg option with
    | some e => exact blind_done _
    | none => exact blind_command _ _ _
  | inSetRF send recv =>
    refine ⟨_, blind_gated (blind_of_cfg (f := fun cfg s => match bitrateLookup cfg send recv with
      | .error e => ⟨.error e, s⟩
      | .ok args => command (commandIndex .inSetRF) args readStatus s) fun cfg => ?_), fun _ => rfl⟩
    cases bitrateLookup cfg send recv with
    | error e => exact blind_done _
    | ok args => exact blind_command _ _ _
  | _ => cases hi

/-! ### The parts of open and close -/

theorem drainRead_withHost (queue : List Item) (earlier : List Reply) (s : State) :
    drainRead (withHost queue earlier s) = ((drainRead s).1, withHost queue earlier (drainRead s).2) := by
  have hanswer : nextReadAnswer s.cfg.drainTimeoutMs (withHost queue earlier s) =
    nextReadAnswer s.cfg.drainTimeoutMs s := rfl
  have hcfg : (withHost queue earlier s).cfg = s.cfg := rfl
  simp only [drainRead, linkRead_answer, hcfg, hanswer]
  cases nextReadAnswer s.cfg.drainTimeoutMs s <;> rfl

theorem drainReady_withHost (n : Nat) (queue : List Item) (earlier : List Reply) (s : State) :
    drainReady n (withHost queue earlier s) =
      ((drainReady n s).1, withHost queue earlier (drainReady n s).2) := by
  induction n generalizing s with
  | zero => rfl
  | succ n ih =>
    rw [drainReady, drainReady, drainRead_withHost]
    rcases drainRead s with ⟨_ | _ | e, t⟩
    · exact ih t
    · rfl
    · rfl

theorem blind_openCommand (cmd : Byte) (args : Bytes) : Blind (openCommand cmd args) := by
  refine blind_andThen (blind_command cmd args readStatus) fun o => ?_
  cases o <;> exact blind_done _

theorem blind_openCommands : Blind openCommands :=
  blind_andThen (blind_openCommand _ _) fun _ => blind_openCommand _ _

theorem openEnd_withHost {f : State → Res Unit} (hf : Blind f) (s : State) : ∃ new, ∀ queue earlier,
    openEnd (f (withHost queue earlier s)) = withHost queue (earlier ++ new) (openEnd (f s)) := by
  rcases hr : f s with ⟨e | _, t⟩
  · refine ⟨[.error e], fun queue earlier => ?_⟩
    rw [hf, hr]
    rfl
  · refine ⟨[.value .nothing], fun queue earlier => ?_⟩
    rw [hf, hr]
    rfl

theorem afterDrain_withHost (d : DrainVerdict × State) : ∃ new, ∀ queue earlier,
    afterDrain (d.1, withHost queue earlier d.2) = withHost queue (earlier ++ new) (afterDrain d) := by
  obtain ⟨_ | _ | e, t⟩ := d
  · refine ⟨[], fun queue earlier => ?_⟩
    rw [List.append_nil]
    rfl
  · exact openEnd_withHost blind_openCommands t
  · exact openEnd_withHost (blind_done (.error e)) t

theorem rfReleased_withHost (queue : List Item) (earlier : List Reply) (s : State) :
    rfReleased (withHost queue earlier s) = withHost queue earlier (rfReleased s) :=
  congrArg Res.st (blind_command _ _ _ queue earlier s)

theorem releaseLink_withHost (queue : List Item) (earlier : List Reply) (s : State) :
    releaseLink (withHost queue earlier s) = withHost queue earlier (releaseLink s) := by
  rw [releaseLink_eq, rfReleased_withHost]
  rfl

/-! ### Whole operations -/

/-- From the state `s` the operation `i` does the same whatever results were returned and whatever is still to come, and
adds the same results of its own. -/
def Independent (i : Instr) (s : State) : Prop :=
  ∃ t new, exec i s = .next t ∧
    ∀ queue earlier, exec i (withHost queue earlier s) = .next (withHost queue (earlier ++ new) t)

theorem independent_reply {i : Instr} {s : State} {f : State → State} {r : Reply}
    (hexec : exec i s = .next (reply r (f s)))
    (hother : ∀ queue earlier, exec i (withHost queue earlier s) = .next (reply r (withHost queue earlier (f s)))) :
    Independent i s :=
  ⟨_, [r], hexec, hother⟩

theorem independent_pure {i : Instr} (hi : isPure i = true) (s : State) : Independent i s := by
  obtain ⟨r, hexec⟩ := exec_pure hi s.cfg
  exact independent_reply (f := id) (hexec s rfl) fun queue earlier => hexec (withHost queue earlier s) rfl

theorem independent_roundTrip {i : Instr} (hi : isRoundTrip i = true) (s : State) : Independent i s := by
  obtain ⟨f, hblind, hexec⟩ := exec_roundTrip_blind hi
  refine independent_reply (f := fun s => (f s).st) (r := outReply (f s).out) ?_ fun queue earlier => ?_
  · rw [hexec, finish_eq_reply]
  · rw [hexec, hblind, finish_eq_reply]

theorem independent_open (s : State) : Independent .openChannel s := by
  by_cases hs : s.chanState = .unopened
  · cases hwrite : writeError (writeAck s).1 with
    | some e =>
      obtain ⟨new, hend⟩ := openEnd_withHost (blind_done (.error e)) (writeAck s).2
      exact ⟨_, new, exec_open_writeFailed hs hwrite, fun queue earlier =>
        (exec_open_writeFailed (s := withHost queue earlier s) hs hwrite).trans (congrArg _ (hend queue earlier))⟩
    | none =>
      obtain ⟨new, hend⟩ := afterDrain_withHost (drainReady (writeAck s).2.readAnswers.length (writeAck s).2)
      refine ⟨_, new, exec_open_written hs hwrite, fun queue earlier => ?_⟩
      rw [exec_open_written (s := withHost queue earlier s) hs hwrite, ← hend queue earlier, ← drainReady_withHost]
      rfl
  · exact independent_reply (f := id) (exec_open_not_unopened hs) fun queue earlier =>
      exec_open_not_unopened (s := withHost queue earlier s) hs

theorem independent_close (s : State) : Independent .closeChannel s := by
  by_cases hs : s.chanState = .closed
  · exact independent_reply (f := id) (exec_close_closed hs) fun queue earlier =>
      exec_close_closed (s := withHost queue earlier s) hs
  · refine independent_reply (exec_close_not_closed hs) fun queue earlier => ?_
    rw [exec_close_not_closed (s := withHost queue earlier s) hs, releaseLink_withHost]

theorem independent (i : Instr) (s : State) : Independent i s := by
  rcases instr_kind i with hpure | hround | rfl | rfl
  · exact independent_pure hpure s
  · exact independent_roundTrip hround s
  · exact independent_open s
  · exact independent_close s

/-- Settles O58: with its own queue and results put in, an operation is the one performed; so what it adds is known. -/
theorem earlierResultsDoNotReachLaterOperations : Obligations.EarlierResultsDoNotReachLaterOperations := by
  unfold Obligations.EarlierResultsDoNotReachLaterOperations
  intro i s
  obtain ⟨t, new, hexec, hother⟩ := independent i s
  have hself : exec i s = .next (withHost s.hostQueue (s.replies ++ new) t) := hother s.hostQueue s.replies
  rw [hexec] at hself
  injection hself with hstate
  exact ⟨t, new, hexec, congrArg State.replies hstate, hother⟩

end Sys2Proof.Proofs.Interference
end

section
/-!
PROOFS. The Codec, the Frame unit and the flags, where they build on more than their own definition: what checksum_ok
accepts (spec/40_codec.md R101), the exact frames (41_frame.md R117), the wire-frame rows (30_encoding.md R60 to
R63, R78) and the numbered communication flags (42_dispatch.md R145, R146).
-/

namespace Sys2Proof.Proofs.Classes

open Sys2Proof Sys2Proof.Machine Sys2Proof.Laws Sys2Proof.Proofs.Encoding Sys2Proof.Proofs.Codec
  Sys2Proof.Proofs.Frame Sys2Proof.Proofs.Dispatch Sys2Proof.Proofs.Replies

/-! ### The checksum byte -/

theorem exec_checksumOk (r : Bytes) (s : State) :
    exec (.checksumOk r) s = .next (reply (.value (.bool (checksumOk r))) s) := rfl

/-- Only the checksum byte makes a protected range sum to 0 mod 256 (R100, R101). -/
theorem checksumOk_append (x : Bytes) (d : Byte) : checksumOk (x ++ [d]) = decide (d = checksum x) := by
  have hzero := byteSum_add_checksum x
  have hsum : byteSum (x ++ [d]) = byteSum x + d.toNat := by simp
  rw [checksumOk, hsum, Bool.eq_iff_iff, beq_iff_eq, decide_eq_true_iff]
  constructor
  · exact fun hd => byte_eq_of_sum (byteSum x) d _ hd hzero
  · rintro rfl
    exact hzero

/-- Settles O2: the test is the sum, and only one trailing byte passes it. -/
theorem checksumOkAcceptsExactlyTheChecksumByte : Obligations.ChecksumOkAcceptsExactlyTheChecksumByte := by
  unfold Obligations.ChecksumOkAcceptsExactlyTheChecksumByte
  refine ⟨fun r s => exec_checksumOk r s, fun x s => ⟨checksum x, exec_checksum x s, fun d => ?_⟩⟩
  rw [exec_checksumOk, checksumOk_append, reply]

/-! ### The exact frames -/

/-- A reply of decode tells what decode made of the transfer. -/
theorem exec_decode_frame_iff (raw : Bytes) (k : FrameKind) (s : State) :
    exec (.decode raw) s = .next (reply (.value (.frame ⟨raw, k⟩)) s) ↔ decodeFrame raw = .ok ⟨raw, k⟩ := by
  rw [exec_decode, next_reply_inj]
  cases decodeFrame raw <;> simp [pureReply]

theorem decodeFrame_ack_iff (raw : Bytes) : decodeFrame raw = .ok ⟨raw, .ack⟩ ↔ raw = ackFrame := by
  constructor
  · intro h
    rw [decodeFrame_checks] at h
    split_ifs at h with hack
    · exact hack
    all_goals cases h
  · rintro rfl
    rfl

theorem decodeFrame_err_iff (raw : Bytes) : decodeFrame raw = .ok ⟨raw, .err⟩ ↔ raw = errFrame := by
  constructor
  · intro h
    rw [decodeFrame_checks] at h
    split_ifs at h with hack herr
    · cases h
    · exact herr
    all_goals cases h
  · rintro rfl
    rfl

/-- Settles O8: of the checks of decode, one alone answers Ack and one alone answers Err. -/
theorem ackAndErrAreExactMatch : Obligations.AckAndErrAreExactMatch := by
  unfold Obligations.AckAndErrAreExactMatch
  exact fun raw s => ⟨(exec_decode_frame_iff raw .ack s).trans (decodeFrame_ack_iff raw),
    (exec_decode_frame_iff raw .err s).trans (decodeFrame_err_iff raw)⟩

/-! ### The wire-frame rows -/

theorem decodeFrame_unknown {raw : Bytes} (h : WellFormed (.frameUnknown raw) = true) :
    decodeFrame raw = .ok ⟨raw, .unknown⟩ := by
  simp only [WellFormed, Bool.and_eq_true, bne_iff_ne, Bool.not_eq_true'] at h
  obtain ⟨⟨hack, herr⟩, hdata⟩ := h
  rw [decodeFrame, if_neg hack, if_neg herr, if_neg (by simp [hdata])]

/-- decode does not look at the first three bytes of a Data frame (R111). -/
theorem decodeFrame_dataFrame_any_start {p start : Bytes} (hstart : start.length = 3) (hp : p.length ≤ 65535) :
    decodeFrame (start ++ (dataFrame p).drop 3) = .ok ⟨start ++ (dataFrame p).drop 3, .data⟩ := by
  obtain ⟨lo, hi, hbytes, hlength⟩ := lengthBytes_parts hp
  obtain ⟨a, b, c, rfl⟩ := List.length_eq_three.1 hstart
  have hlengthSum : (lo.toNat + hi.toNat + (checksum [lo, hi]).toNat) % 256 = 0 := by
    simpa using byteSum_add_checksum [lo, hi]
  have hvalid := validData_of_layout (a := a) (b := b) (c := c) (rest := [0x00]) hlength hlengthSum
    (byteSum_add_checksum p)
  rw [dataFrame_of_lengthBytes hbytes]
  simpa using decodeFrame_of_validData hvalid

theorem exec_frameData (raw : Bytes) (s : State) : exec (.frameData raw) s = exec (.decode raw) s := rfl

theorem exec_frameUnknown (raw : Bytes) (s : State) : exec (.frameUnknown raw) s = exec (.decode raw) s := rfl

/-- Settles O11: a transfer of a row is handed to decode, which gives it the row's class. -/
theorem wireFramesGetTheirClass : Obligations.WireFramesGetTheirClass := by
  unfold Obligations.WireFramesGetTheirClass
  refine fun s => ⟨rfl, rfl, fun raw h => ?_, fun p start hstart hp => ?_, fun raw => exec_frameData raw s⟩
  · rw [exec_frameUnknown]
    exact (exec_decode_frame_iff raw .unknown s).2 (decodeFrame_unknown h)
  · rw [exec_frameData]
    exact (exec_decode_frame_iff _ .data s).2 (decodeFrame_dataFrame_any_start hstart hp)

/-! ### The numbered flags -/

theorem freeBit_not_numbered :
    ∀ k < 32, k ≠ 7 → k ≠ 31 → (~~~0x80000080 : U32).getLsbD k = true := by
  decide

/-- A word of the numbered bits alone meets none of the configured bits (R146). -/
theorem and_configuredBit {bits : List U32} (h : FlagBitsLegal bits) {b : U32} (hb : b ∈ bits) {mask : U32}
    (hmask : mask &&& ~~~0x80000080 = 0) : mask &&& b = 0 := by
  obtain ⟨k, hk, hreceiveTimeout, hreceiveLength, rfl⟩ := h.2 b hb
  have hfree : (~~~0x80000080 : U32).getLsbD k = true := freeBit_not_numbered k hk hreceiveTimeout hreceiveLength
  have hclear : (mask &&& ~~~0x80000080).getLsbD k = false := by
    rw [hmask]
    exact BitVec.getLsbD_zero
  rw [BitVec.getLsbD_and, hfree, Bool.and_true] at hclear
  rw [BitVec.and_twoPow, hclear]
  rfl

theorem getElem_mem_commFlagBit (cfg : ConfigRegs) (i : Nat) (hi : i < 10) :
    cfg.commFlagBit[i] ∈ cfg.commFlagBit.toList :=
  Vector.mem_toList_iff.2 (Vector.getElem_mem hi)

/-- Of a word of the numbered bits alone, the names are the numbered flags (R145). -/
theorem flagNames_numbered {cfg : ConfigRegs} (h : FlagBitsLegal cfg.commFlagBit.toList) {mask : U32}
    (hmask : mask &&& ~~~0x80000080 = 0) : flagNames cfg mask =
      (if mask &&& 0x80 = 0 then [] else [.receiveTimeout]) ++
        (if mask &&& 0x80000000 = 0 then [] else [.receiveLength]) := by
  have hclear : ∀ (i : Nat) (hi : i < 10), mask &&& cfg.commFlagBit[i] = 0 := fun i hi =>
    and_configuredBit h (getElem_mem_commFlagBit cfg i hi) hmask
  rw [flagNames, commFlagTable_rows]
  simp only [List.filter_cons, hclear, bne_self_eq_false, Bool.false_eq_true, if_false, List.filter_nil, bne_iff_ne,
    ne_eq, ite_not]
  split_ifs <;> rfl

/-- Of a word of the numbered bits alone, every bit has a name (R145). -/
theorem flagResidue_numbered (cfg : ConfigRegs) {mask : U32} (hmask : mask &&& ~~~0x80000080 = 0) :
    flagResidue cfg mask = 0 := by
  refine BitVec.eq_of_getLsbD_eq fun k hk => ?_
  have hbit : (mask &&& ~~~0x80000080).getLsbD k = false := by
    rw [hmask]
    exact BitVec.getLsbD_zero
  have hnumbered : (0x80000080 : U32).getLsbD k = true →
      (commFlagTable cfg).any (fun f => f.2.getLsbD k) = true := by
    rw [show (0x80000080 : U32) = 0x80 ||| 0x80000000 from rfl, BitVec.getLsbD_or, commFlagTable_rows,
      List.any_eq_true]
    intro h
    rcases (Bool.or_eq_true _ _).mp h with h | h
    · exact ⟨(.receiveTimeout, 0x80), by simp, h⟩
    · exact ⟨(.receiveLength, 0x80000000), by simp, h⟩
  rw [getLsbD_flagResidue cfg mask hk]
  rw [BitVec.getLsbD_and, BitVec.getLsbD_not, decide_eq_true hk, Bool.true_and] at hbit
  cases hm : mask.getLsbD k with
  | false => simp
  | true =>
    rw [hm, Bool.true_and, Bool.not_eq_false'] at hbit
    simp [hnumbered hbit]

/-- Settles O17: the four words of the two numbered bits. -/
theorem numberedFlagsDoNotDependOnTheConfiguration : Obligations.NumberedFlagsDoNotDependOnTheConfiguration := by
  unfold Obligations.NumberedFlagsDoNotDependOnTheConfiguration
  intro s hlegal
  have named : ∀ mask : U32, mask &&& ~~~0x80000080 = 0 → exec (.commFlags mask) s =
      .next (reply (.value (.flags ((if mask &&& 0x80 = 0 then [] else [.receiveTimeout]) ++
        (if mask &&& 0x80000000 = 0 then [] else [.receiveLength])) 0)) s) := fun mask hmask => by
    rw [exec_commFlags, flagNames_numbered hlegal hmask, flagResidue_numbered s.cfg hmask]
  exact ⟨named 0 rfl, named 0x80 rfl, named 0x80000000 rfl, named 0x80000080 rfl⟩

end Sys2Proof.Proofs.Classes
end

section
/-!
PROOFS. Round trips that end without results (spec/42_dispatch.md R133, R134, R136, R205): a failed write, a failed
read, a rejected transfer and a protocol mismatch, for every operation that sends a request.
-/

namespace Sys2Proof.Proofs.Failures

open Sys2Proof Sys2Proof.Machine Sys2Proof.Laws Sys2Proof.Proofs.RoundTrip Sys2Proof.Proofs.Replies

/-! ### The link primitives under a script -/

theorem linkWrite_scripted {s : State} {w : WriteAnswer} {ws : List WriteAnswer} (b : Bytes)
    (hw : s.writeAnswers = w :: ws) : linkWrite b s = (w, { s with
      writeAnswers := ws
      trace := s.trace ++ [.write b w (deliveredPart s.trace b w)] }) := by
  simp only [linkWrite, nextWriteAnswer_cons b hw, hw, List.tail_cons]

theorem linkRead_scripted {s : State} {a : ReadAnswer} {rs : List ReadAnswer} (t : U32)
    (hr : s.readAnswers = a :: rs) : linkRead t s = (readOutcome a, { s with
      readAnswers := rs
      trace := s.trace ++ [.read t (readOutcome a)] }) := by
  simp only [linkRead, nextReadAnswer_cons t hr, hr, List.tail_cons]

/-- A read that completes with zero bytes is a timeout, and no other answer is changed (R15, D4). -/
theorem readOutcome_eq (a : ReadAnswer) : readOutcome a = if a = .data [] then .timeout else a := by
  split
  · next h => rw [h]; rfl
  · next h =>
    unfold readOutcome
    split
    · exact absurd rfl h
    · rfl

/-! ### A failed write -/

/-- The write answers that are failures, each with its IOError (R202). -/
def WriteFailure (w : WriteAnswer) (k : IOKind) : Prop :=
  w = .shortWrite ∧ k = .shortWrite ∨ w = .other ∧ k = .other

theorem writeError_of_failure {w : WriteAnswer} {k : IOKind} (h : WriteFailure w k) :
    writeError w = some (.ioError k) := by
  rcases h with ⟨rfl, rfl⟩ | ⟨rfl, rfl⟩ <;> rfl

theorem linkWriteOrFatal_failed {s : State} {w : WriteAnswer} {ws : List WriteAnswer} {k : IOKind} (b : Bytes)
    (hw : s.writeAnswers = w :: ws) (h : WriteFailure w k) :
    linkWriteOrFatal b s = fatal (.ioError k) { s with
      writeAnswers := ws
      trace := s.trace ++ [.write b w (deliveredPart s.trace b w)] } := by
  simp only [linkWriteOrFatal, linkWrite_scripted b hw, writeError_of_failure h]

theorem roundTrip_writeFailed {cmd op : Byte} {args : Bytes} {s : State} {w : WriteAnswer}
    {ws : List WriteAnswer} {k : IOKind} (ho : commandOpcode cmd = .ok op) (hl : args.length ≤ 65533)
    (hw : s.writeAnswers = w :: ws) (h : WriteFailure w k) :
    roundTrip cmd args s = fatal (.ioError k) { s with
      writeAnswers := ws
      trace := s.trace ++ [.write (dataFrame (0xD6 :: op :: args)) w
        (deliveredPart s.trace (dataFrame (0xD6 :: op :: args)) w)] } := by
  have hframe : encodeFrame (0xD6 :: op :: args) = .ok (dataFrame (0xD6 :: op :: args)) :=
    encodeFrame_ok (by simp only [List.length_cons]; omega)
  simp only [roundTrip, buildRequest_of_opcode ho hl, Except.bind, hframe, linkWriteOrFatal_failed _ hw h,
    fatal_andThen]

/-- A command whose round trip ends with a fatal error latches FAILED and replies that error (R136). -/
theorem finish_command_of_fatal {cmd : Byte} {args : Bytes} {s t : State} {e : Error}
    (h : roundTrip cmd args s = fatal e t) (read : Bytes → Except Error Value) :
    finish (command cmd args read s) = reply (.error e) { t with chanState := .failed } := by
  rw [command, h, fatal_andThen, finish_fatal]

theorem command_of_none {cmd : Byte} {args : Bytes} {s t : State} (h : roundTrip cmd args s = ⟨.ok none, t⟩)
    (read : Bytes → Except Error Value) : command cmd args read s = ⟨.ok none, t⟩ := by
  rw [command, h, andThen_ok]

/-- A command whose round trip is a protocol mismatch replies None (R133, D13). -/
theorem finish_command_of_none {cmd : Byte} {args : Bytes} {s t : State}
    (h : roundTrip cmd args s = ⟨.ok none, t⟩) (read : Bytes → Except Error Value) :
    finish (command cmd args read s) = reply .noResult t := by
  rw [command_of_none h, finish_none]

/-- Settles O25: the write's error is fatal, and no read follows it. -/
theorem failedWriteLatchesFailed : Obligations.FailedWriteLatchesFailed := by
  unfold Obligations.FailedWriteLatchesFailed
  intro i op args s ws w k hopened hsends hw hfailure
  obtain ⟨cmd, read, ho, hl, -, hexec⟩ := sends_exec hsends hopened
  refine ⟨_, deliveredPart_prefix s.trace _ w, ?_⟩
  rw [hexec, finish_command_of_fatal (roundTrip_writeFailed ho hl hw hfailure), reply]

/-! ### A failed read -/

/-- The read answers that end a round trip, each with its error (R134, R202, D4, D6). -/
def ReadFailure (a : ReadAnswer) (e : Error) : Prop :=
  a = .timeout ∧ e = .ioError .timeout ∨ a = .data [] ∧ e = .ioError .timeout ∨
    a = .invalidRead ∧ e = .ioError .invalidRead ∨ a = .other ∧ e = .ioError .other ∨
    ∃ raw, a = .data raw ∧ decodeFrame raw = .error e

theorem readFrameOrFatal_failed {s : State} {a : ReadAnswer} {rs : List ReadAnswer} {e : Error}
    (hr : s.readAnswers = a :: rs) (h : ReadFailure a e) :
    readFrameOrFatal s = fatal e { s with
      readAnswers := rs
      trace := s.trace ++ [.read s.cfg.respTimeoutMs (if a = .data [] then .timeout else a)] } := by
  rw [← readOutcome_eq]
  simp only [readFrameOrFatal, linkRead_scripted _ hr]
  rcases h with ⟨rfl, rfl⟩ | ⟨rfl, rfl⟩ | ⟨rfl, rfl⟩ | ⟨rfl, rfl⟩ | ⟨raw, rfl, hdecode⟩
  iterate 4 rfl
  have hne : raw ≠ [] := by
    rintro rfl
    cases hdecode
  simp only [readOutcome_data hne, hdecode]

/-- The read of the Ack (R133). -/
theorem readFrameOrFatal_ack {s : State} {rs : List ReadAnswer} (hr : s.readAnswers = .data ackFrame :: rs) :
    readFrameOrFatal s = ⟨.ok ⟨ackFrame, .ack⟩, { s with
      readAnswers := rs
      trace := s.trace ++ [.read s.cfg.respTimeoutMs (.data ackFrame)] }⟩ :=
  readFrameOrFatal_data hr (by decide) rfl

theorem awaitResponse_firstFailed {cmd : Byte} {s : State} {a : ReadAnswer} {rs : List ReadAnswer} {e : Error}
    (hr : s.readAnswers = a :: rs) (h : ReadFailure a e) :
    awaitResponse cmd s = fatal e { s with
      readAnswers := rs
      trace := s.trace ++ [.read s.cfg.respTimeoutMs (if a = .data [] then .timeout else a)] } := by
  rw [awaitResponse, readFrameOrFatal_failed hr h, fatal_andThen]

theorem awaitResponse_secondFailed {cmd : Byte} {s : State} {a : ReadAnswer} {rs : List ReadAnswer} {e : Error}
    (hr : s.readAnswers = .data ackFrame :: a :: rs) (h : ReadFailure a e) :
    awaitResponse cmd s = fatal e { s with
      readAnswers := rs
      trace := s.trace ++ [.read s.cfg.respTimeoutMs (.data ackFrame),
        .read s.cfg.respTimeoutMs (if a = .data [] then .timeout else a)] } := by
  rw [awaitResponse, readFrameOrFatal_ack hr, andThen_ok, if_neg (not_not_intro rfl),
    readFrameOrFatal_failed rfl h, fatal_andThen]
  simp only [List.append_assoc, List.cons_append, List.nil_append]

/-- Settles O26: the first read's error is fatal, and no second read follows it. -/
theorem firstReadFailureLatchesFailed : Obligations.FirstReadFailureLatchesFailed := by
  unfold Obligations.FirstReadFailureLatchesFailed
  intro i op args s ws rs a e hopened hsends hw hr hfailure
  obtain ⟨cmd, read, ho, hl, -, hexec⟩ := sends_exec hsends hopened
  have hround := (roundTrip_written ho hl hw).trans (awaitResponse_firstFailed hr hfailure)
  rw [hexec, finish_command_of_fatal hround, reply]
  simp only [List.append_assoc, List.cons_append, List.nil_append]

/-- Settles O27: after the Ack the second read's error is fatal. -/
theorem secondReadFailureLatchesFailed : Obligations.SecondReadFailureLatchesFailed := by
  unfold Obligations.SecondReadFailureLatchesFailed
  intro i op args s ws rs a e hopened hsends hw hr hfailure
  obtain ⟨cmd, read, ho, hl, -, hexec⟩ := sends_exec hsends hopened
  have hround := (roundTrip_written ho hl hw).trans (awaitResponse_secondFailed hr hfailure)
  rw [hexec, finish_command_of_fatal hround, reply]
  simp only [List.append_assoc, List.cons_append, List.nil_append]

/-! ### A protocol mismatch -/

/-- A round trip that is a protocol mismatch has made exactly the reads that tell so, and replies None. -/
theorem exec_mismatched {i : Instr} {op : Byte} {args : Bytes} {s : State} {reads rs : List ReadAnswer}
    {ws : List WriteAnswer} (hsends : Sends s.cfg i op args) (hopened : s.chanState = .opened)
    (hw : s.writeAnswers = .ok :: ws) (hr : s.readAnswers = reads ++ rs) (hm : Mismatched op reads) :
    exec i s = .next { s with
      writeAnswers := ws
      readAnswers := rs
      trace := s.trace ++ .write (dataFrame (0xD6 :: op :: args)) .ok (dataFrame (0xD6 :: op :: args)) ::
        reads.map (.read s.cfg.respTimeoutMs)
      replies := s.replies ++ [.noResult] } := by
  obtain ⟨cmd, read, ho, hl, -, hexec⟩ := sends_exec hsends hopened
  rw [hexec, finish_command_of_none (roundTrip_mismatched ho hl hw hr hm), reply]

/-- Settles O23: another header is one of the mismatches. -/
theorem headerMismatchIsNoResult : Obligations.HeaderMismatchIsNoResult := by
  unfold Obligations.HeaderMismatchIsNoResult
  rintro i op args p raw s ws rs hsends ⟨hopened, hw, hr, hdecode, hpayload⟩ hheader
  exact exec_mismatched hsends hopened hw hr (.header hdecode hpayload hheader)

/-- Settles O24: the two frame kinds are the other mismatches. -/
theorem unexpectedFrameKindsAreNoResult : Obligations.UnexpectedFrameKindsAreNoResult := by
  unfold Obligations.UnexpectedFrameKindsAreNoResult
  intro i op args raw k s ws rs hopened hsends hw hne hdecode
  exact ⟨fun hk hr => exec_mismatched hsends hopened hw hr (.notAck hne hdecode hk),
    fun hk hr => exec_mismatched hsends hopened hw hr (.notData hne hdecode hk)⟩

/-! ### The latch -/

/-- Settles O29: the law of gated operations, read off the one reply. -/
theorem onlyFatalErrorsLatchFailed : Obligations.OnlyFatalErrorsLatchFailed := by
  unfold Obligations.OnlyFatalErrorsLatchFailed
  intro i s hround hopened
  obtain ⟨r, l, rep, hexec, herror, hresult⟩ := exec_roundTrip_spec hround s
  have hx := hresult.changes
  refine ⟨_, rep, hexec, congrArg (· ++ [rep]) hx.replies, ?_, ?_, hx.cfg, hx.seq, hx.hostQueue, hx.writeAnswers,
    hx.readAnswers⟩
  · rintro ⟨e, hrep, hfatal⟩
    rcases hresult.latched with ⟨-, -, -, hfailed⟩ | ⟨hnone, -⟩
    · exact hfailed
    · rw [hnone e ((herror e).1 hrep)] at hfatal
      cases hfatal
  · intro hnot
    rcases hresult.latched with ⟨e, hout, hfatal, -⟩ | ⟨-, hkept⟩
    · exact absurd ⟨e, (herror e).2 hout, hfatal⟩ hnot
    · exact hkept.trans hopened

end Sys2Proof.Proofs.Failures
end

section
/-!
PROOFS. Round trips with results (spec/42_dispatch.md R133, 43_commands.md R160 to R167): what the readers of results
reply, the request and the reply of each wrapper and of its payloads, and the arguments that are rejected before
the link.
-/

namespace Sys2Proof.Proofs.Results

open Sys2Proof Sys2Proof.Machine Sys2Proof.Laws Sys2Proof.Proofs.Frame Sys2Proof.Proofs.Dispatch
  Sys2Proof.Proofs.Replies

/-! ### The readers of results -/

theorem readStatus_reply (results : Bytes) : pureReply (readStatus results) = statusReply results := by
  cases results with
  | nil => rfl
  | cons c rest =>
    rw [readStatus, statusReply, ite_not]
    split <;> rfl

theorem readVersion_reply (results : Bytes) : pureReply (readVersion results) = versionReply results := by
  match results with
  | [] | [_] => rfl
  | lo :: hi :: rest =>
    have hlength : ¬ ((lo :: hi :: rest).length < 2) := by simp
    have hslice : slice (lo :: hi :: rest) 0 2 = [lo, hi] := rfl
    rw [readVersion, if_neg hlength, hslice, fromLE16_pair]
    rfl

/-- The status word comes first, and only a zero word is followed by data (R167). -/
theorem readComm_reply (results : Bytes) : pureReply (readComm results) = commReply results := by
  match results with
  | [] | [_] | [_, _] | [_, _, _] => rfl
  | s0 :: s1 :: s2 :: s3 :: rest =>
    have hlength : ¬ ((s0 :: s1 :: s2 :: s3 :: rest).length < 4) := by simp
    have hslice : slice (s0 :: s1 :: s2 :: s3 :: rest) 0 4 = [s0, s1, s2, s3] := rfl
    simp only [readComm, if_neg hlength, hslice, fromLE32_four, commReply]
    split
    · rfl
    · cases rest with
      | nil => rfl
      | cons n out =>
        rw [if_neg (by simp)]
        rfl

/-! ### A round trip that is answered -/

/-- A command whose response has the matching header is read by its reader (R133, R160). -/
theorem command_answered {cmd op : Byte} {args results raw : Bytes} {s : State} {ws : List WriteAnswer}
    {rs : List ReadAnswer} (ho : commandOpcode cmd = .ok op) (hl : args.length ≤ 65533)
    (hw : s.writeAnswers = .ok :: ws) (hr : s.readAnswers = .data ackFrame :: .data raw :: rs)
    (hd : decodeFrame raw = .ok ⟨raw, .data⟩) (hp : payloadOf ⟨raw, .data⟩ = .ok (0xD7 :: (op + 1) :: results))
    (read : Bytes → Except Error Value) :
    command cmd args read s = ⟨(read results).map some, { s with
      writeAnswers := ws
      readAnswers := rs
      trace := s.trace ++ exchange s.cfg (0xD6 :: op :: args) raw }⟩ := by
  rw [command, roundTrip_answered ho hl hw hr (decodeFrame_data_ne_nil hd) hd, if_neg (not_not_intro rfl), hp]
  simp only [Except.bind, checkResponse_match results ho, andThen_ok]

/-- The same on an OPEN channel, as a whole operation (R137). -/
theorem linkOperation_answered {cmd op : Byte} {args results raw : Bytes} {s : State} {ws : List WriteAnswer}
    {rs : List ReadAnswer} (ho : commandOpcode cmd = .ok op) (hl : args.length ≤ 65533)
    (h : Responds s (0xD7 :: (op + 1) :: results) raw ws rs) (read : Bytes → Except Error Value) :
    linkOperation cmd args read s =
      afterExchange s (0xD6 :: op :: args) raw ws rs (pureReply (read results)) := by
  obtain ⟨hopened, hw, hr, hd, hp⟩ := h
  rw [linkOperation, gated_opened hopened, command_answered ho hl hw hr hd hp, finish_eq_reply, outReply_map_some]
  rfl

/-- Settles O22: the results are handed on as they are. -/
theorem sendCommandReturnsTheResults : Obligations.SendCommandReturnsTheResults := by
  unfold Obligations.SendCommandReturnsTheResults
  exact fun cmd op args results raw s ws rs ho hl h => congrArg _ (linkOperation_answered ho hl h readRaw)

section answered
variable {cmd op : Byte} {args results raw : Bytes} {s : State} {ws : List WriteAnswer} {rs : List ReadAnswer}

theorem statusOperation_answered (ho : commandOpcode cmd = .ok op) (hl : args.length ≤ 65533)
    (h : Responds s (0xD7 :: (op + 1) :: results) raw ws rs) : linkOperation cmd args readStatus s =
      afterExchange s (0xD6 :: op :: args) raw ws rs (statusReply results) := by
  rw [linkOperation_answered ho hl h, readStatus_reply]

theorem versionOperation_answered (ho : commandOpcode cmd = .ok op) (hl : args.length ≤ 65533)
    (h : Responds s (0xD7 :: (op + 1) :: results) raw ws rs) : linkOperation cmd args readVersion s =
      afterExchange s (0xD6 :: op :: args) raw ws rs (versionReply results) := by
  rw [linkOperation_answered ho hl h, readVersion_reply]

theorem commOperation_answered (ho : commandOpcode cmd = .ok op) (hl : args.length ≤ 65533)
    (h : Responds s (0xD7 :: (op + 1) :: results) raw ws rs) : linkOperation cmd args readComm s =
      afterExchange s (0xD6 :: op :: args) raw ws rs (commReply results) := by
  rw [linkOperation_answered ho hl h, readComm_reply]

end answered

/-- Settles O30: the wrapper and the payload are the same operation. -/
theorem setCommandTypeRoundTrip : Obligations.SetCommandTypeRoundTrip := by
  unfold Obligations.SetCommandTypeRoundTrip
  intro n results raw s ws rs h
  have hround := statusOperation_answered (cmd := commandIndex .setCommandType) (op := 0x2A) (args := [n]) rfl
    (by simp) h
  exact ⟨congrArg _ hround, congrArg _ hround⟩

/-- Settles O31: the wrapper and the payload are the same operation. -/
theorem switchRFRoundTrip : Obligations.SwitchRFRoundTrip := by
  unfold Obligations.SwitchRFRoundTrip
  intro on results raw s ws rs h
  have hround := statusOperation_answered (cmd := commandIndex .switchRF) (op := 0x06) (args := switchArgs on) rfl
    (by simp [switchArgs]) h
  exact ⟨congrArg _ hround, congrArg _ hround⟩

/-- Settles O33: the wrapper and the payload are the same operation. -/
theorem getPDDataVersionRoundTrip : Obligations.GetPDDataVersionRoundTrip := by
  unfold Obligations.GetPDDataVersionRoundTrip
  intro results raw s ws rs h
  have hround := versionOperation_answered (cmd := commandIndex .getPDDataVersion) (op := 0x22) (args := []) rfl
    (by simp) h
  exact ⟨congrArg _ hround, congrArg _ hround⟩

/-! ### The wrappers that check their arguments -/

/-- Past its option check get_firmware_version is a plain round trip (R163). -/
theorem exec_getFirmwareVersion_accepted {option : Option Byte} {s : State} (h : optionRejected s.cfg option = none) :
    exec (.getFirmwareVersion option) s =
      .next (linkOperation (commandIndex .getFirmwareVersion) (optionArgs option) readVersion s) := by
  simp only [exec, execGetFirmwareVersion, linkOperation, gated, h]

theorem exec_getFirmwareVersion_rejected {option : Option Byte} {s : State} {e : Error}
    (ho : s.chanState = .opened) (h : optionRejected s.cfg option = some e) :
    exec (.getFirmwareVersion option) s = .next (reply (.error e) s) := by
  simp only [exec, execGetFirmwareVersion, gated_opened ho, h, finish_error]

/-- Past its profile lookups in_set_rf is a plain round trip (R165). -/
theorem exec_inSetRF_accepted {send : Byte} {recv : Option Byte} {args : Bytes} {s : State}
    (h : bitrateLookup s.cfg send recv = .ok args) :
    exec (.inSetRF send recv) s = .next (linkOperation (commandIndex .inSetRF) args readStatus s) := by
  simp only [exec, execInSetRF, linkOperation, gated, h]

theorem exec_inSetRF_rejected {send : Byte} {recv : Option Byte} {s : State} {e : Error}
    (ho : s.chanState = .opened) (h : bitrateLookup s.cfg send recv = .error e) :
    exec (.inSetRF send recv) s = .next (reply (.error e) s) := by
  simp only [exec, execInSetRF, gated_opened ho, h, finish_error]

theorem optionRejected_none {cfg : ConfigRegs} {option : Option Byte}
    (h : ∀ o, option = some o → o ∈ cfg.fwOptionSet) : optionRejected cfg option = none := by
  cases option with
  | none => rfl
  | some o => exact if_pos (h o rfl)

theorem optionRejected_some {cfg : ConfigRegs} {o : Byte} (h : o ∉ cfg.fwOptionSet) :
    optionRejected cfg (some o) = some (.parameterError o) :=
  if_neg h

theorem bitrateLookup_ok {cfg : ConfigRegs} {send : Byte} {recv : Option Byte} {t v : BitrateTuple}
    (ht : cfg.bitrateTable[send.toNat]? = some t) (hv : cfg.bitrateTable[(recv.getD send).toNat]? = some v) :
    bitrateLookup cfg send recv = .ok (bitrateArgs t v) := by
  simp only [bitrateLookup, ht, hv]

theorem bitrateTable_none (cfg : ConfigRegs) {n : Nat} (h : n > 7) : cfg.bitrateTable[n]? = none :=
  Vector.getElem?_eq_none h

theorem bitrateTable_some (cfg : ConfigRegs) {n : Nat} (h : n ≤ 7) : ∃ t, cfg.bitrateTable[n]? = some t :=
  ⟨_, Vector.getElem?_eq_getElem (Nat.lt_succ_of_le h)⟩

theorem bitrateLookup_send {cfg : ConfigRegs} {send : Byte} (h : send.toNat > 7) (recv : Option Byte) :
    bitrateLookup cfg send recv = .error (.parameterError send) := by
  simp only [bitrateLookup, bitrateTable_none cfg h]

theorem bitrateLookup_recv {cfg : ConfigRegs} {send : Byte} {recv : Option Byte} (hs : send.toNat ≤ 7)
    (hr : (recv.getD send).toNat > 7) : bitrateLookup cfg send recv = .error (.parameterError (recv.getD send)) := by
  obtain ⟨t, ht⟩ := bitrateTable_some cfg hs
  simp only [bitrateLookup, ht, bitrateTable_none cfg hr]

/-- Settles O32: an option of the set passes the check, and the payload has none. -/
theorem getFirmwareVersionRoundTrip : Obligations.GetFirmwareVersionRoundTrip := by
  unfold Obligations.GetFirmwareVersionRoundTrip
  intro option results raw s ws rs h
  have hround := versionOperation_answered (cmd := commandIndex .getFirmwareVersion) (op := 0x20)
    (args := optionArgs option) rfl (by cases option <;> simp [optionArgs]) h
  refine ⟨fun hoption => ?_, congrArg _ hround⟩
  rw [exec_getFirmwareVersion_accepted (optionRejected_none hoption), hround]
  rfl

/-- Settles O34: the looked-up profiles give the four bytes that the payload carries. -/
theorem inSetRFRoundTrip : Obligations.InSetRFRoundTrip := by
  unfold Obligations.InSetRFRoundTrip
  intro results raw s ws rs h
  have hround : ∀ s0 s1 r2 r3 : Byte, linkOperation (commandIndex .inSetRF) [s0, s1, r2, r3] readStatus s =
      afterExchange s [0xD6, 0x00, s0, s1, r2, r3] raw ws rs (statusReply results) := fun _ _ _ _ =>
    statusOperation_answered (op := 0x00) rfl (by simp) h
  refine ⟨fun send recv t v ht hv => ?_, fun s0 s1 r2 r3 => congrArg _ (hround s0 s1 r2 r3)⟩
  rw [exec_inSetRF_accepted (bitrateLookup_ok ht hv), bitrateArgs, hround]

/-! ### The protocol parameters in key order -/

theorem insertPair_perm (p : Byte × Byte) (l : List (Byte × Byte)) : (insertPair p l).Perm (p :: l) := by
  induction l with
  | nil => exact .refl _
  | cons q l ih =>
    rw [insertPair]
    split
    · exact .refl _
    · exact (ih.cons q).trans (.swap p q l)

theorem sortPairs_perm (l : List (Byte × Byte)) : (sortPairs l).Perm l := by
  induction l with
  | nil => exact .refl _
  | cons p l ih => exact (insertPair_perm p _).trans (ih.cons p)

/-- The keys do not descend. -/
def KeySorted (l : List (Byte × Byte)) : Prop := l.Pairwise fun p q => p.1.toNat ≤ q.1.toNat

theorem insertPair_sorted {p : Byte × Byte} {l : List (Byte × Byte)} (h : KeySorted l) :
    KeySorted (insertPair p l) := by
  induction l with
  | nil => exact List.pairwise_singleton _ _
  | cons q l ih =>
    obtain ⟨hq, hl⟩ := List.pairwise_cons.1 h
    rw [insertPair]
    split
    · next hle =>
      refine List.pairwise_cons.2 ⟨fun r hr => ?_, h⟩
      rcases List.mem_cons.1 hr with rfl | hr
      · exact hle
      · exact hle.trans (hq r hr)
    · next hgt =>
      refine List.pairwise_cons.2 ⟨fun r hr => ?_, ih hl⟩
      rcases List.mem_cons.1 ((insertPair_perm p l).mem_iff.1 hr) with rfl | hr
      · exact Nat.le_of_not_le hgt
      · exact hq r hr

theorem sortPairs_sorted (l : List (Byte × Byte)) : KeySorted (sortPairs l) := by
  induction l with
  | nil => exact List.Pairwise.nil
  | cons p l ih => exact insertPair_sorted ih

/-- Settles O36: the pairs sent are the present ones, sorted; the payload's are sent as they are. -/
theorem inSetProtocolSendsPresentFieldsInKeyOrder : Obligations.InSetProtocolSendsPresentFieldsInKeyOrder := by
  unfold Obligations.InSetProtocolSendsPresentFieldsInKeyOrder
  intro results raw s ws rs h
  have hround : ∀ args : Bytes, args.length ≤ 65533 →
      linkOperation (commandIndex .inSetProtocol) args readStatus s =
        afterExchange s (0xD6 :: 0x02 :: args) raw ws rs (statusReply results) := fun _ hl =>
    statusOperation_answered (op := 0x02) rfl hl h
  refine ⟨fun params => ⟨sortPairs (presentPairs s.cfg.protocolKeyId.toList (protocolValues params)),
    sortPairs_perm _, sortPairs_sorted _, ?_⟩, fun pairs hl => ?_⟩
  · exact congrArg _ (hround _ ((protocolArgs_length s.cfg params).trans (by decide)))
  · exact congrArg _ (hround _ ((serializePairs_length pairs).trans_le hl))

/-! ### The timeout and the data of InCommRF -/

/-- The two bytes of a word are its only low and high part. -/
theorem toLE16_of_parts {v : U16} {lo hi : Byte} (h : v.toNat = lo.toNat + 256 * hi.toNat) : toLE16 v = [lo, hi] := by
  obtain ⟨hbytes, hvalue⟩ := toLE16_parts v
  have := lo.isLt
  have := (v.extractLsb' 0 8).isLt
  have hlo : v.extractLsb' 0 8 = lo := BitVec.eq_of_toNat_eq (by omega)
  have hhi : v.extractLsb' 8 8 = hi := BitVec.eq_of_toNat_eq (by omega)
  rw [hbytes, hlo, hhi]

/-- Settles O37: the timeout is sent as its two bytes, whether converted or carried. -/
theorem inCommRFRoundTrip : Obligations.InCommRFRoundTrip := by
  unfold Obligations.InCommRFRoundTrip
  intro data results raw s ws rs hdata h
  have hround : ∀ (v : U16) (lo hi : Byte), v.toNat = lo.toNat + 256 * hi.toNat →
      linkOperation (commandIndex .inCommRF) (commArgs v data) readComm s =
        afterExchange s (0xD6 :: 0x04 :: lo :: hi :: data) raw ws rs (commReply results) := fun v lo hi hv => by
    rw [commArgs, toLE16_of_parts hv]
    exact commOperation_answered (op := 0x04) rfl (by simp; omega) h
  refine ⟨fun units => ?_, fun v lo hi hv => congrArg _ (hround v lo hi hv)⟩
  have hparts := (toLE16_parts (convertTimeout units)).2
  exact ⟨_, _, _, exec_convertTimeout units s, hparts, congrArg _ (hround _ _ _ hparts)⟩

/-! ### Response payloads -/

/-- A response payload of a command has the matching header, so its reader is applied (R65, R132). -/
theorem finish_readResponse {cmd op : Byte} (ho : commandOpcode cmd = .ok op) (read : Bytes → Except Error Value)
    (results : Bytes) (s : State) :
    finish ⟨readResponse cmd read (responsePayload op results), s⟩ = reply (pureReply (read results)) s := by
  have hmatch : checkResponse cmd (responsePayload op results) = .ok (some results) := checkResponse_match results ho
  rw [finish_eq_reply, readResponse, hmatch]
  exact congrArg (reply · s) (outReply_map_some _)

/-- Settles O38: by the reader of each command. -/
theorem responsePayloadsAreReadByTheirLayout : Obligations.ResponsePayloadsAreReadByTheirLayout := by
  unfold Obligations.ResponsePayloadsAreReadByTheirLayout
  intro results s
  have status : ∀ {cmd op : Byte}, commandOpcode cmd = .ok op →
      finish ⟨readResponse cmd readStatus (responsePayload op results), s⟩ = reply (statusReply results) s :=
    fun ho => by rw [finish_readResponse ho, readStatus_reply]
  have version : ∀ {cmd op : Byte}, commandOpcode cmd = .ok op →
      finish ⟨readResponse cmd readVersion (responsePayload op results), s⟩ = reply (versionReply results) s :=
    fun ho => by rw [finish_readResponse ho, readVersion_reply]
  have comm : ∀ {cmd op : Byte}, commandOpcode cmd = .ok op →
      finish ⟨readResponse cmd readComm (responsePayload op results), s⟩ = reply (commReply results) s :=
    fun ho => by rw [finish_readResponse ho, readComm_reply]
  exact ⟨congrArg _ (status rfl), congrArg _ (status rfl), congrArg _ (status rfl), congrArg _ (status rfl),
    congrArg _ (version rfl), congrArg _ (version rfl), congrArg _ (comm rfl)⟩

/-! ### Arguments rejected before the link -/

theorem linkOperation_rejected {cmd : Byte} {args : Bytes} {s : State} {e : Error} (ho : s.chanState = .opened)
    (h : buildRequest cmd args = .error e) (read : Bytes → Except Error Value) :
    linkOperation cmd args read s = reply (.error e) s := by
  simp only [linkOperation, gated_opened ho, command, roundTrip, h, Except.bind, andThen_error, finish_error]

theorem linkOperation_lengthRange {cmd op : Byte} {args : Bytes} {s : State} (ho : s.chanState = .opened)
    (hop : commandOpcode cmd = .ok op) (hl : args.length > 65533) (read : Bytes → Except Error Value) :
    linkOperation cmd args read s = reply (.error (.lengthRange (2 + args.length))) s :=
  linkOperation_rejected ho (buildRequest_lengthRange hop hl) read

/-- Settles O21: the request is not built, so nothing is written. -/
theorem sendCommandRejectsArgumentsBeforeTheLink : Obligations.SendCommandRejectsArgumentsBeforeTheLink := by
  unfold Obligations.SendCommandRejectsArgumentsBeforeTheLink
  refine fun cmd args s ho => ⟨fun hcmd => ?_, fun hcmd hl => ?_⟩
  · exact congrArg _ (linkOperation_rejected ho (buildRequest_parameterError hcmd args) readRaw)
  · obtain ⟨op, hop⟩ := commandOpcode_ok hcmd
    exact congrArg _ (linkOperation_lengthRange ho hop hl readRaw)

/-- The two timeout bytes and the two header bytes count against the frame (R167, D8). -/
theorem commOperation_lengthRange {data : Bytes} {s : State} (ho : s.chanState = .opened) (hl : data.length > 65531)
    (t : U16) : linkOperation (commandIndex .inCommRF) (commArgs t data) readComm s =
      reply (.error (.lengthRange (4 + data.length))) s := by
  have hargs : (commArgs t data).length = 2 + data.length := by rw [commArgs, List.length_append, toLE16_length]
  rw [linkOperation_lengthRange (op := 0x04) ho rfl (by omega), hargs]
  simp only [← Nat.add_assoc, Nat.reduceAdd]

/-- The errors of the argument checks (R208, R209). -/
def IsArgumentError (e : Error) : Prop := (∃ v, e = .parameterError v) ∨ ∃ n, e = .lengthRange n

/-- An operation that has a request to send, or rejects its arguments with no link activity. -/
def SendsOrRejects (i : Instr) (s : State) : Prop :=
  (∃ op args, Sends s.cfg i op args) ∨ ∃ e, IsArgumentError e ∧ exec i s = .next (reply (.error e) s)

theorem sendsOrRejects_sendCommand (cmd : Byte) (args : Bytes) {s : State} (ho : s.chanState = .opened) :
    SendsOrRejects (.sendCommand cmd args) s := by
  obtain ⟨hindex, hlength⟩ := sendCommandRejectsArgumentsBeforeTheLink cmd args s ho
  by_cases hcmd : cmd.toNat ≤ 6
  · by_cases hl : args.length ≤ 65533
    · obtain ⟨op, hop⟩ := commandOpcode_ok hcmd
      exact .inl ⟨op, args, .sendCommand hop hl⟩
    · exact .inr ⟨_, .inr ⟨_, rfl⟩, hlength hcmd (Nat.lt_of_not_le hl)⟩
  · exact .inr ⟨_, .inl ⟨_, rfl⟩, hindex (Nat.lt_of_not_le hcmd)⟩

theorem sendsOrRejects_getFirmwareVersion (option : Option Byte) {s : State} (ho : s.chanState = .opened) :
    SendsOrRejects (.getFirmwareVersion option) s := by
  cases option with
  | none => exact .inl ⟨_, _, .getFirmwareVersion fun o h => by cases h⟩
  | some o =>
    by_cases hmem : o ∈ s.cfg.fwOptionSet
    · exact .inl ⟨_, _, .getFirmwareVersion fun o' h => by cases h; exact hmem⟩
    · exact .inr ⟨_, .inl ⟨o, rfl⟩, exec_getFirmwareVersion_rejected ho (optionRejected_some hmem)⟩

theorem sendsOrRejects_inSetRF (send : Byte) (recv : Option Byte) {s : State} (ho : s.chanState = .opened) :
    SendsOrRejects (.inSetRF send recv) s := by
  by_cases hs : send.toNat ≤ 7
  · by_cases hr : (recv.getD send).toNat ≤ 7
    · obtain ⟨t, ht⟩ := bitrateTable_some s.cfg hs
      obtain ⟨v, hv⟩ := bitrateTable_some s.cfg hr
      exact .inl ⟨_, _, .inSetRF ht hv⟩
    · exact .inr ⟨_, .inl ⟨_, rfl⟩, exec_inSetRF_rejected ho (bitrateLookup_recv hs (Nat.lt_of_not_le hr))⟩
  · exact .inr ⟨_, .inl ⟨_, rfl⟩, exec_inSetRF_rejected ho (bitrateLookup_send (Nat.lt_of_not_le hs) recv)⟩

theorem sendsOrRejects_roundTrip {i : Instr} (hi : isRoundTrip i = true) {s : State} (ho : s.chanState = .opened) :
    SendsOrRejects i s := by
  cases i with
  | sendCommand cmd args => exact sendsOrRejects_sendCommand cmd args ho
  | getFirmwareVersion option => exact sendsOrRejects_getFirmwareVersion option ho
  | inSetRF send recv => exact sendsOrRejects_inSetRF send recv ho
  | setCommandType n => exact .inl ⟨_, _, .setCommandType n⟩
  | switchRF on => exact .inl ⟨_, _, .switchRF on⟩
  | getPDDataVersion => exact .inl ⟨_, _, .getPDDataVersion⟩
  | inSetProtocol params => exact .inl ⟨_, _, .inSetProtocol params⟩
  | reqSetCommandType n => exact .inl ⟨_, _, .reqSetCommandType n⟩
  | reqSwitchRF on => exact .inl ⟨_, _, .reqSwitchRF on⟩
  | reqGetFirmwareVersion option => exact .inl ⟨_, _, .reqGetFirmwareVersion option⟩
  | reqGetPDDataVersion => exact .inl ⟨_, _, .reqGetPDDataVersion⟩
  | reqInSetRF s0 s1 r2 r3 => exact .inl ⟨_, _, .reqInSetRF s0 s1 r2 r3⟩
  | reqInSetProtocol pairs =>
    by_cases hl : 2 * pairs.length ≤ 65533
    · exact .inl ⟨_, _, .reqInSetProtocol hl⟩
    · have hlength := (serializePairs_length pairs).trans_gt (Nat.lt_of_not_le hl)
      exact .inr ⟨_, .inr ⟨_, rfl⟩, congrArg _ (linkOperation_lengthRange (op := 0x02) ho rfl hlength readStatus)⟩
  | inCommRF data units =>
    by_cases hl : data.length ≤ 65531
    · exact .inl ⟨_, _, .inCommRF units hl⟩
    · exact .inr ⟨_, .inr ⟨_, rfl⟩, congrArg _ (commOperation_lengthRange ho (Nat.lt_of_not_le hl) _)⟩
  | reqInCommRF t data =>
    by_cases hl : data.length ≤ 65531
    · exact .inl ⟨_, _, .reqInCommRF t hl⟩
    · exact .inr ⟨_, .inr ⟨_, rfl⟩, congrArg _ (commOperation_lengthRange ho (Nat.lt_of_not_le hl) _)⟩
  | _ => cases hi

/-- Settles O35: each check answers before the request is built. -/
theorem wrappersRejectArgumentsBeforeTheLink : Obligations.WrappersRejectArgumentsBeforeTheLink := by
  unfold Obligations.WrappersRejectArgumentsBeforeTheLink
  intro s ho
  refine ⟨fun o hmem => ?_, fun send recv hs => ?_, fun send r hs hr => ?_, fun data units hl => ?_,
    fun i hi => sendsOrRejects_roundTrip hi ho⟩
  · exact exec_getFirmwareVersion_rejected ho (optionRejected_some hmem)
  · exact exec_inSetRF_rejected ho (bitrateLookup_send hs recv)
  · exact exec_inSetRF_rejected ho (bitrateLookup_recv (recv := some r) hs hr)
  · exact congrArg _ (commOperation_lengthRange ho hl _)

end Sys2Proof.Proofs.Results
end

section
/-!
PROOFS. Open on a link whose answers are known (spec/44_channel.md R180 to R182, 70_reset_and_hazards.md R246): the
drain read by read, the first failing step, and the two commands as their wrappers perform them.
-/

namespace Sys2Proof.Proofs.Opening

open Sys2Proof Sys2Proof.Machine Sys2Proof.Laws Sys2Proof.Proofs.Replies Sys2Proof.Proofs.Channel
  Sys2Proof.Proofs.Steps Sys2Proof.Proofs.Failures Sys2Proof.Proofs.Results

/-! ### The drain -/

/-- The drain read answers that are failures, each with its IOError (R181, R202). -/
def DrainFailure (a : ReadAnswer) (k : IOKind) : Prop :=
  a = .invalidRead ∧ k = .invalidRead ∨ a = .other ∧ k = .other

theorem drainRead_failed {s : State} {a : ReadAnswer} {k : IOKind} {rs : List ReadAnswer}
    (hr : s.readAnswers = a :: rs) (h : DrainFailure a k) : drainRead s = (.failed (.ioError k), { s with
      readAnswers := rs
      trace := s.trace ++ [.read s.cfg.drainTimeoutMs a] }) := by
  rw [drainRead, linkRead_scripted _ hr]
  rcases h with ⟨rfl, rfl⟩ | ⟨rfl, rfl⟩ <;> rfl

theorem drainRead_stale {s : State} {b : Bytes} {rs : List ReadAnswer} (hb : b ≠ [])
    (hr : s.readAnswers = .data b :: rs) : drainRead s = (.more, { s with
      readAnswers := rs
      trace := s.trace ++ [.read s.cfg.drainTimeoutMs (.data b)] }) := by
  rw [drainRead, linkRead_scripted _ hr, readOutcome_data hb]

theorem drainRead_quiet {s d : State} (h : linkRead s.cfg.drainTimeoutMs s = (.timeout, d)) :
    drainRead s = (.quiet, d) := by
  simp only [drainRead, h]

/-- A step of a draining open that reads a transfer goes on draining (R181, R246). -/
theorem step_stale {s : State} {b : Bytes} {rs : List ReadAnswer} (hseq : s.seq = .draining) (hb : b ≠ [])
    (hr : s.readAnswers = .data b :: rs) : step s = .next { s with
      readAnswers := rs
      trace := s.trace ++ [.read s.cfg.drainTimeoutMs (.data b)] } := by
  rw [step_draining hseq, resumeOpen, drainRead_stale hb hr, afterDrain, ← hseq]

theorem run_succ_of_step {M : Host.Core} {s u : M.State} (h : M.step s = .next u) (n : Nat) :
    M.run (n + 1) s = M.run n u := by
  rw [Host.Core.run, h]

/-- Settles O42: by induction on the transfers, one step each. -/
theorem drainGoesOnWhileTheLinkDelivers : Obligations.DrainGoesOnWhileTheLinkDelivers := by
  unfold Obligations.DrainGoesOnWhileTheLinkDelivers
  intro s stale rs hseq hne hr
  induction stale generalizing s with
  | nil =>
    obtain rfl : s.readAnswers = rs := hr
    rw [List.map_nil, List.append_nil]
    rfl
  | cons b stale ih =>
    have hreads : s.readAnswers = .data b :: (stale.map .data ++ rs) := hr
    have hstep := step_stale hseq (hne b (List.mem_cons_self ..)) hreads
    have hrest := ih { s with
      readAnswers := stale.map .data ++ rs
      trace := s.trace ++ [.read s.cfg.drainTimeoutMs (.data b)] } hseq
      (fun c hc => hne c (List.mem_cons_of_mem _ hc)) rfl
    refine (run_succ_of_step (M := Sys2Proof.core) hstep stale.length).trans (hrest.trans ?_)
    simp only [List.map_cons, List.append_assoc, List.cons_append, List.nil_append]

/-- Settles O43: the read's error ends open. -/
theorem drainReadFailureFailsOpen : Obligations.DrainReadFailureFailsOpen := by
  unfold Obligations.DrainReadFailureFailsOpen
  intro s a k rs hseq hr hfailure
  rw [step_draining hseq, resumeOpen, drainRead_failed hr hfailure, afterDrain]
  rfl

/-! ### The commands of open under a script -/

/-- The state `s` after the link interactions of a whole round trip. -/
def exchanged (s : State) (request raw : Bytes) (ws : List WriteAnswer) (rs : List ReadAnswer) : State :=
  { s with writeAnswers := ws, readAnswers := rs, trace := s.trace ++ exchange s.cfg request raw }

/-- The link accepts the next write and answers it with the Ack and a Data frame with payload `p`. -/
structure Answers (s : State) (p raw : Bytes) (ws : List WriteAnswer) (rs : List ReadAnswer) : Prop where
  write : s.writeAnswers = .ok :: ws
  reads : s.readAnswers = .data ackFrame :: .data raw :: rs
  decoded : decodeFrame raw = .ok ⟨raw, .data⟩
  payload : payloadOf ⟨raw, .data⟩ = .ok p

section commands
variable {cmd op : Byte} {args res raw : Bytes} {s : State} {ws : List WriteAnswer} {rs : List ReadAnswer}
  (ho : commandOpcode cmd = .ok op) (hl : args.length ≤ 65533)
include ho hl

theorem openCommand_success (h : Answers s (0xD7 :: (op + 1) :: 0 :: res) raw ws rs) :
    openCommand cmd args s = ⟨.ok (), exchanged s (0xD6 :: op :: args) raw ws rs⟩ := by
  rw [openCommand, command_answered ho hl h.write h.reads h.decoded h.payload]
  rfl

/-- A status that is not zero fails open with its StatusError (R180). -/
theorem openCommand_status {c : Byte} (hc : c ≠ 0) (h : Answers s (0xD7 :: (op + 1) :: c :: res) raw ws rs) :
    openCommand cmd args s =
      ⟨.error (.statusError c (statusName c)), exchanged s (0xD6 :: op :: args) raw ws rs⟩ := by
  rw [openCommand, command_answered ho hl h.write h.reads h.decoded h.payload, readStatus, if_pos hc]
  rfl

/-- None fails open with ProtocolMismatch (R180, D22). -/
theorem openCommand_mismatched {reads : List ReadAnswer} (hw : s.writeAnswers = .ok :: ws)
    (hr : s.readAnswers = reads ++ rs) (hm : Mismatched op reads) :
    openCommand cmd args s = ⟨.error .protocolMismatch, { s with
      writeAnswers := ws
      readAnswers := rs
      trace := s.trace ++ .write (dataFrame (0xD6 :: op :: args)) .ok (dataFrame (0xD6 :: op :: args)) ::
        reads.map (.read s.cfg.respTimeoutMs) }⟩ := by
  rw [openCommand, command_of_none (roundTrip_mismatched ho hl hw hr hm), andThen_ok]

end commands

theorem openCommands_of_failed {s t : State} {e : Error}
    (h : openCommand (commandIndex .setCommandType) [0x01] s = ⟨.error e, t⟩) : openCommands s = ⟨.error e, t⟩ := by
  rw [openCommands, h, andThen_error]

theorem openCommands_of_success {s t : State}
    (h : openCommand (commandIndex .setCommandType) [0x01] s = ⟨.ok (), t⟩) :
    openCommands s = openCommand (commandIndex .switchRF) (switchArgs false) t := by
  rw [openCommands, h, andThen_ok]

/-- After a successful SetCommandType(1), open goes on with SwitchRF(false) on the link as it is then. -/
theorem openCommands_of_answered {s : State} {raw res : Bytes} {ws : List WriteAnswer} {rs : List ReadAnswer}
    (h : Answers s (0xD7 :: 0x2B :: 0 :: res) raw ws rs) : openCommands s =
      openCommand (commandIndex .switchRF) (switchArgs false) (exchanged s [0xD6, 0x2A, 0x01] raw ws rs) :=
  openCommands_of_success (openCommand_success (op := 0x2A) rfl (by decide) h)

/-- Settles O39: the drain, then the two successes. -/
theorem openNormalizesTheLinkAndOpens : Obligations.OpenNormalizesTheLinkAndOpens := by
  unfold Obligations.OpenNormalizesTheLinkAndOpens
  intro s stale raw1 raw2 res1 res2 ws rs hs hw hne hr hd1 hp1 hd2 hp2
  rw [exec_open_of_normalizes ⟨hs, hw, hne, hr⟩, openCommands_of_answered ⟨rfl, rfl, hd1, hp1⟩,
    openCommand_success (op := 0x06) rfl (by decide) ⟨rfl, rfl, hd2, hp2⟩, openEnd_ok]
  rfl

/-! ### The first failing step -/

/-- Open that fails on its way is the failed open of the state where its drain began or ended. -/
theorem openEnd_failed (e : Error) {d t : State} {l : List LinkEvent}
    (h : t = { d with trace := d.trace ++ l }) : openEnd ⟨.error e, t⟩ = failedOpen d l (.error e) := by
  rw [h]
  rfl

theorem open_writeFailed {s : State} {w : WriteAnswer} {k : IOKind} {ws : List WriteAnswer}
    (hs : s.chanState = .unopened) (hw : s.writeAnswers = w :: ws) (h : WriteFailure w k) :
    ∃ delivered : Bytes, delivered <+: ackFrame ∧
      exec .openChannel s = .next (failedOpen { s with writeAnswers := ws }
        [.write ackFrame w delivered] (.error (.ioError k))) := by
  have hwrite : writeAck s = _ := linkWrite_scripted ackFrame hw
  refine ⟨_, deliveredPart_prefix s.trace ackFrame w, ?_⟩
  rw [exec_open_writeFailed hs (by rw [hwrite]; exact writeError_of_failure h), hwrite]
  rfl

theorem open_drainFailed {s : State} {stale : List Bytes} {a : ReadAnswer} {k : IOKind} {ws : List WriteAnswer}
    {rs : List ReadAnswer} (hs : s.chanState = .unopened) (hw : s.writeAnswers = .ok :: ws)
    (hne : ∀ b ∈ stale, b ≠ []) (hr : s.readAnswers = stale.map .data ++ a :: rs) (h : DrainFailure a k) :
    exec .openChannel s = .next (failedOpen { s with writeAnswers := ws, readAnswers := rs }
      ([.write ackFrame .ok ackFrame] ++ stale.map (fun b => .read s.cfg.drainTimeoutMs (.data b)) ++
        [.read s.cfg.drainTimeoutMs a]) (.error (.ioError k))) := by
  have hwrite : writeAck s = _ := linkWrite_scripted ackFrame hw
  rw [exec_open_written hs (by rw [hwrite]; rfl), hwrite, hr, List.length_append, List.length_map,
    drainReady_stale hne _ rfl, List.length_cons, drainReady, drainRead_failed rfl h, afterDrain]
  refine congrArg Host.Outcome.next (openEnd_failed _ ?_)
  simp only [deliveredPart_ok, List.append_assoc]

theorem open_setCommandType_status {s : State} {stale : List Bytes} {raw res : Bytes} {c : Byte}
    {ws : List WriteAnswer} {rs : List ReadAnswer}
    (h : Normalizes s stale (.ok :: ws) (.data ackFrame :: .data raw :: rs))
    (hd : decodeFrame raw = .ok ⟨raw, .data⟩) (hp : payloadOf ⟨raw, .data⟩ = .ok (0xD7 :: 0x2B :: c :: res))
    (hc : c ≠ 0) : exec .openChannel s = .next (failedOpen (drained s stale ws rs)
      (exchange s.cfg [0xD6, 0x2A, 0x01] raw) (statusReply (c :: res))) := by
  rw [exec_open_of_normalizes h,
    openCommands_of_failed (openCommand_status (op := 0x2A) rfl (by decide) hc ⟨rfl, rfl, hd, hp⟩), statusReply, if_neg hc]
  exact congrArg Host.Outcome.next (openEnd_failed _ rfl)

theorem open_setCommandType_mismatched {s : State} {stale : List Bytes} {reads : List ReadAnswer}
    {ws : List WriteAnswer} {rs : List ReadAnswer} (h : Normalizes s stale (.ok :: ws) (reads ++ rs))
    (hm : Mismatched 0x2A reads) : exec .openChannel s = .next (failedOpen (drained s stale ws rs)
      (.write (dataFrame [0xD6, 0x2A, 0x01]) .ok (dataFrame [0xD6, 0x2A, 0x01]) ::
        reads.map (.read s.cfg.respTimeoutMs)) (.error .protocolMismatch)) := by
  rw [exec_open_of_normalizes h,
    openCommands_of_failed (openCommand_mismatched (op := 0x2A) rfl (by decide) rfl rfl hm)]
  exact congrArg Host.Outcome.next (openEnd_failed _ rfl)

theorem open_switchRF_status {s : State} {stale : List Bytes} {raw1 raw res1 res : Bytes} {c : Byte}
    {ws : List WriteAnswer} {rs : List ReadAnswer}
    (h : Normalizes s stale (.ok :: .ok :: ws)
      (.data ackFrame :: .data raw1 :: .data ackFrame :: .data raw :: rs))
    (hd1 : decodeFrame raw1 = .ok ⟨raw1, .data⟩) (hp1 : payloadOf ⟨raw1, .data⟩ = .ok (0xD7 :: 0x2B :: 0 :: res1))
    (hd : decodeFrame raw = .ok ⟨raw, .data⟩) (hp : payloadOf ⟨raw, .data⟩ = .ok (0xD7 :: 0x07 :: c :: res))
    (hc : c ≠ 0) : exec .openChannel s = .next (failedOpen (drained s stale ws rs)
      (exchange s.cfg [0xD6, 0x2A, 0x01] raw1 ++ exchange s.cfg [0xD6, 0x06, 0x00] raw)
      (statusReply (c :: res))) := by
  rw [exec_open_of_normalizes h, openCommands_of_answered ⟨rfl, rfl, hd1, hp1⟩,
    openCommand_status (op := 0x06) rfl (by decide) hc ⟨rfl, rfl, hd, hp⟩, statusReply, if_neg hc]
  refine congrArg Host.Outcome.next (openEnd_failed _ ?_)
  rw [← List.append_assoc]
  rfl

theorem open_switchRF_mismatched {s : State} {stale : List Bytes} {raw1 res1 : Bytes} {reads : List ReadAnswer}
    {ws : List WriteAnswer} {rs : List ReadAnswer}
    (h : Normalizes s stale (.ok :: .ok :: ws) (.data ackFrame :: .data raw1 :: (reads ++ rs)))
    (hd1 : decodeFrame raw1 = .ok ⟨raw1, .data⟩) (hp1 : payloadOf ⟨raw1, .data⟩ = .ok (0xD7 :: 0x2B :: 0 :: res1))
    (hm : Mismatched 0x06 reads) : exec .openChannel s = .next (failedOpen (drained s stale ws rs)
      (exchange s.cfg [0xD6, 0x2A, 0x01] raw1 ++
        .write (dataFrame [0xD6, 0x06, 0x00]) .ok (dataFrame [0xD6, 0x06, 0x00]) ::
          reads.map (.read s.cfg.respTimeoutMs)) (.error .protocolMismatch)) := by
  rw [exec_open_of_normalizes h, openCommands_of_answered ⟨rfl, rfl, hd1, hp1⟩,
    openCommand_mismatched (op := 0x06) rfl (by decide) rfl rfl hm]
  refine congrArg Host.Outcome.next (openEnd_failed _ ?_)
  rw [← List.append_assoc]
  rfl

/-- Settles O41: the six failing steps in their order. -/
theorem openFailsAtItsFirstFailingStep : Obligations.OpenFailsAtItsFirstFailingStep := by
  unfold Obligations.OpenFailsAtItsFirstFailingStep
  exact ⟨fun s w k ws hs hw h => open_writeFailed hs hw h,
    fun s stale a k ws rs hs hw hne hr h => open_drainFailed hs hw hne hr h,
    fun s stale raw res c ws rs h hd hp hc => open_setCommandType_status h hd hp hc,
    fun s stale reads ws rs h hm => open_setCommandType_mismatched h hm,
    fun s stale raw1 raw res1 res c ws rs h hd1 hp1 hd hp hc => open_switchRF_status h hd1 hp1 hd hp hc,
    fun s stale raw1 res1 reads ws rs h hd1 hp1 hm => open_switchRF_mismatched h hd1 hp1 hm⟩

/-! ### The commands of open as their wrappers perform them -/

/-- A status command that succeeds has no value to return (R160). -/
theorem readStatus_ok {results : Bytes} {v : Value} (h : readStatus results = .ok v) : v = .nothing := by
  cases results with
  | nil => cases h
  | cons c rest =>
    rw [readStatus] at h
    split at h <;> cases h
    rfl

theorem command_readStatus_ok {cmd : Byte} {args : Bytes} {s : State} {v : Value}
    (h : (command cmd args readStatus s).out = .ok (some v)) : v = .nothing := by
  rw [command] at h
  rcases hround : roundTrip cmd args s with ⟨_ | _ | results, t⟩ <;> rw [hround] at h
  · cases h
  · cases h
  · have hvalue : (readStatus results).map some = .ok (some v) := h
    cases hread : readStatus results <;> rw [hread] at hvalue <;> cases hvalue
    exact readStatus_ok hread

/-- What open makes of what one of its commands ended with: it goes on after a success, and fails otherwise. -/
theorem openCommand_reply {cmd : Byte} {args : Bytes} {s x : State} {out : Except Error (Option Value)}
    (h : command cmd args readStatus s = ⟨out, x⟩) :
    (out = .ok (some .nothing) ∧ openCommand cmd args s = ⟨.ok (), x⟩) ∨
    (outReply out ≠ .value .nothing ∧ ∃ e, openReply (outReply out) = .error e ∧
      openCommand cmd args s = ⟨.error e, x⟩) := by
  rw [openCommand, h]
  rcases out with e | _ | v
  · exact .inr ⟨by simp [outReply], e, rfl, rfl⟩
  · exact .inr ⟨by simp [outReply], _, rfl, rfl⟩
  · obtain rfl : v = .nothing := command_readStatus_ok (congrArg Res.out h)
    exact .inl ⟨rfl, rfl⟩

/-- An internal command of open and the wrapper's operation on an OPEN channel reply the same and leave the same state
but for the channel state, which the wrapper keeps OPEN when it succeeds. -/
theorem openCommand_as_wrapper (cmd : Byte) (args : Bytes) (d : State) : ∃ r x c,
    linkOperation cmd args readStatus { d with chanState := .opened } = reply r { x with chanState := c } ∧
      x.replies = d.replies ∧
      ((r = .value .nothing ∧ c = .opened ∧ openCommand cmd args d = ⟨.ok (), x⟩) ∨
        (r ≠ .value .nothing ∧ ∃ e, openReply r = .error e ∧ openCommand cmd args d = ⟨.error e, x⟩)) := by
  obtain ⟨l, hx, -, -⟩ := command_spec cmd args readStatus_safe d
  obtain ⟨-, -, hlatched, -⟩ := command_spec cmd args readStatus_safe { d with chanState := .opened }
  obtain ⟨hout, c, hst⟩ := command_sameButChan cmd args readStatus d .opened
  rcases hcommand : command cmd args readStatus d with ⟨out, x⟩
  rw [hcommand] at hx hout hst
  refine ⟨outReply out, x, c, ?_, hx.replies, ?_⟩
  · rw [linkOperation, gated_opened rfl, finish_eq_reply, hout, hst]
  · rcases openCommand_reply hcommand with ⟨rfl, hopen⟩ | ⟨hne, hopen⟩
    · refine .inl ⟨rfl, ?_, hopen⟩
      rcases hlatched with ⟨e, he, -⟩ | ⟨-, hkept⟩
      · rw [hout] at he
        cases he
      · rw [hst] at hkept
        exact hkept
    · exact .inr ⟨hne, hopen⟩

/-- Once its drain has ended, open does what its two commands do (R180, R182, D22). -/
theorem openCommands_endsAsItsCommands (d : State) :
    EndsAsItsCommands d (.next (openEnd (openCommands d))) := by
  obtain ⟨r1, x1, c1, hwrapper1, hreplies1, hfirst⟩ :=
    openCommand_as_wrapper (commandIndex .setCommandType) [0x01] d
  refine ⟨_, r1, congrArg Host.Outcome.next hwrapper1, congrArg (· ++ [r1]) hreplies1, fun hne => ?_, fun heq => ?_⟩
  · rcases hfirst with ⟨heq, -, -⟩ | ⟨-, e, hreply, hopen⟩
    · exact absurd heq hne
    · rw [openCommands_of_failed hopen, openEnd_error, hreply, ← hreplies1]
      rfl
  · rcases hfirst with ⟨-, rfl, hopen⟩ | ⟨hne, -⟩
    · obtain ⟨r2, x2, c2, hwrapper2, hreplies2, hsecond⟩ :=
        openCommand_as_wrapper (commandIndex .switchRF) (switchArgs false) x1
      have hreplies : x2.replies = d.replies := hreplies2.trans hreplies1
      have hbetween : ({ reply r1 { x1 with chanState := .opened } with replies := d.replies } : State) =
          { x1 with chanState := .opened } := by
        rw [← hreplies1]
        rfl
      refine ⟨_, r2, (congrArg (exec (.switchRF false)) hbetween).trans (congrArg Host.Outcome.next hwrapper2),
        congrArg (· ++ [r2]) hreplies, ?_⟩
      rw [openCommands_of_success hopen, ← hreplies]
      rcases hsecond with ⟨rfl, -, hopen2⟩ | ⟨hne, e, hreply, hopen2⟩
      · rw [hopen2, openEnd_ok, if_pos rfl]
        rfl
      · rw [hopen2, openEnd_error, if_neg hne, hreply]
        rfl
    · exact absurd heq hne

/-- Settles O60: whether the drain ends in the first step of open or in a later one, its two commands follow. -/
theorem openEndsAsItsTwoCommandsDo : Obligations.OpenEndsAsItsTwoCommandsDo := by
  unfold Obligations.OpenEndsAsItsTwoCommandsDo
  refine ⟨fun s stale ws rs h => ?_, fun s d hseq hread => ?_⟩
  · rw [exec_open_of_normalizes h]
    exact openCommands_endsAsItsCommands _
  · rw [step_draining hseq, resumeOpen, drainRead_quiet hread]
    exact openCommands_endsAsItsCommands d

end Sys2Proof.Proofs.Opening
end
